-- ==== Sys2Proof/Word.lean ====
section
/-! DEFINITION. The two word types of the core (00_scope.md R12). -/

namespace Sys2Proof

/-- A byte: an integer 0 to 255 (R12). A, X, Y, SP, P and every memory cell hold one. -/
abbrev Byte := BitVec 8

/-- A word: an integer 0 to 65,535 (R12). PC, effective addresses and pointers are words. -/
abbrev Word := BitVec 16

end Sys2Proof
end

