-- ==== Sys2Proof/Config.lean ====
section
/-! DEFINITION. What the implementation fixes: the parameters of 00_scope.md R10, and the vocabulary of the two
immutable tables (10_state.md R45): the semantic operations, the addressing modes, the operand forms. -/

namespace Sys2Proof

/-- Memory size in bytes: the full 16-bit address space (R10). -/
def Config.memorySize : Nat := 0x10000

/-- Load address of a ROM, and the PC of a fresh session (R10, 20_memory.md R68). -/
def Config.loadAddress : Word := 0x0200

/-- Base of the 256-byte stack page (R10). -/
def Config.stackBase : Word := 0x0100

/-- SP of a fresh session: the top of the stack page (R10, 10_state.md R38). -/
def Config.stackReset : Byte := 0xFF

/-- The longest ROM that fits between the load address and 0xFFFF (70_reset_and_hazards.md R504). -/
def Config.maxRom : Nat := 0xFE00

/-- The 31 semantic operations, each named by its mnemonic (R2). -/
inductive Op where
  | ADC | AND | EOR | ORA | SBC
  | ASL | LSR | ROL | ROR
  | LDA | LDX | LDY | STA | STX | STY
  | TAX | TAY | TSX | TXA | TXS | TYA
  | INC | INX | INY | DEC | DEX | DEY
  | PHA | PHP | PLA | PLP
  deriving DecidableEq, Repr

/-- The 11 addressing modes of 40_addressing_modes.md R130. "none" (implied, accumulator-only) is `none` of
`Option Mode`. `relative` and `indirect` are defined in the resolver and bound to no opcode (30_encoding.md R101). -/
inductive Mode where
  | immediate | zeroPage | zeroPageX | zeroPageY
  | absolute | absoluteX | absoluteY
  | relative | indirect | indexedIndirect | indirectIndexed
  deriving DecidableEq, Repr

/-- A mode with its assembled operand: the byte `b` of format F2, or the word `w` of format F3 (30_encoding.md
R91, R93). -/
inductive Operand where
  | immediate (b : Byte)
  | zeroPage (b : Byte)
  | zeroPageX (b : Byte)
  | zeroPageY (b : Byte)
  | absolute (w : Word)
  | absoluteX (w : Word)
  | absoluteY (w : Word)
  | relative (b : Byte)
  | indirect (w : Word)
  | indexedIndirect (b : Byte)
  | indirectIndexed (b : Byte)
  deriving DecidableEq, Repr

/-- The addressing mode of an operand form. -/
def Operand.mode : Operand → Mode
  | .immediate _ => .immediate
  | .zeroPage _ => .zeroPage
  | .zeroPageX _ => .zeroPageX
  | .zeroPageY _ => .zeroPageY
  | .absolute _ => .absolute
  | .absoluteX _ => .absoluteX
  | .absoluteY _ => .absoluteY
  | .relative _ => .relative
  | .indirect _ => .indirect
  | .indexedIndirect _ => .indexedIndirect
  | .indirectIndexed _ => .indirectIndexed

end Sys2Proof
end

