-- ==== Sys2Proof/Syntax.lean ====
section
/-! DEFINITION. The instruction set: one constructor per row of the opcode table (30_encoding.md R98, R102), named by
its mnemonic and addressing mode, with the operand byte or word of its format (R91) as its argument. -/

namespace Sys2Proof

/-- An instruction: one of the 113 (mnemonic, mode) pairs with its operand. `Imm` immediate, `Zp` zeroPage, `ZpX`
zeroPageX, `ZpY` zeroPageY, `Abs` absolute, `AbsX` absoluteX, `AbsY` absoluteY, `IndX` indexedIndirect, `IndY`
indirectIndexed, `Acc` accumulator-only. No suffix is implied. -/
inductive Instr where
  -- Arithmetic and logic: 42_arith_logic.md
  | adcImm (b : Byte)
  | adcZp (b : Byte)
  | adcZpX (b : Byte)
  | adcAbs (w : Word)
  | adcAbsX (w : Word)
  | adcAbsY (w : Word)
  | adcIndX (b : Byte)
  | adcIndY (b : Byte)
  | andImm (b : Byte)
  | andZp (b : Byte)
  | andZpX (b : Byte)
  | andAbs (w : Word)
  | andAbsX (w : Word)
  | andAbsY (w : Word)
  | andIndX (b : Byte)
  | andIndY (b : Byte)
  | eorImm (b : Byte)
  | eorZp (b : Byte)
  | eorZpX (b : Byte)
  | eorAbs (w : Word)
  | eorAbsX (w : Word)
  | eorAbsY (w : Word)
  | eorIndX (b : Byte)
  | eorIndY (b : Byte)
  | oraImm (b : Byte)
  | oraZp (b : Byte)
  | oraZpX (b : Byte)
  | oraAbs (w : Word)
  | oraAbsX (w : Word)
  | oraAbsY (w : Word)
  | oraIndX (b : Byte)
  | oraIndY (b : Byte)
  | sbcImm (b : Byte)
  | sbcZp (b : Byte)
  | sbcZpX (b : Byte)
  | sbcAbs (w : Word)
  | sbcAbsX (w : Word)
  | sbcAbsY (w : Word)
  | sbcIndX (b : Byte)
  | sbcIndY (b : Byte)
  -- Shifts and rotates: 43_shift_rotate.md
  | aslAcc
  | aslZp (b : Byte)
  | aslZpX (b : Byte)
  | aslAbs (w : Word)
  | aslAbsX (w : Word)
  | lsrAcc
  | lsrZp (b : Byte)
  | lsrZpX (b : Byte)
  | lsrAbs (w : Word)
  | lsrAbsX (w : Word)
  | rolAcc
  | rolZp (b : Byte)
  | rolZpX (b : Byte)
  | rolAbs (w : Word)
  | rolAbsX (w : Word)
  | rorAcc
  | rorZp (b : Byte)
  | rorZpX (b : Byte)
  | rorAbs (w : Word)
  | rorAbsX (w : Word)
  -- Loads and stores: 44_load_store.md
  | ldaImm (b : Byte)
  | ldaZp (b : Byte)
  | ldaZpX (b : Byte)
  | ldaAbs (w : Word)
  | ldaAbsX (w : Word)
  | ldaAbsY (w : Word)
  | ldaIndX (b : Byte)
  | ldaIndY (b : Byte)
  | ldxImm (b : Byte)
  | ldxZp (b : Byte)
  | ldxZpY (b : Byte)
  | ldxAbs (w : Word)
  | ldxAbsY (w : Word)
  | ldyImm (b : Byte)
  | ldyZp (b : Byte)
  | ldyZpX (b : Byte)
  | ldyAbs (w : Word)
  | ldyAbsX (w : Word)
  | staZp (b : Byte)
  | staZpX (b : Byte)
  | staAbs (w : Word)
  | staAbsX (w : Word)
  | staAbsY (w : Word)
  | staIndX (b : Byte)
  | staIndY (b : Byte)
  | stxZp (b : Byte)
  | stxZpY (b : Byte)
  | stxAbs (w : Word)
  | styZp (b : Byte)
  | styZpX (b : Byte)
  | styAbs (w : Word)
  -- Register transfers: 45_transfer.md
  | tax
  | tay
  | tsx
  | txa
  | txs
  | tya
  -- Increments and decrements: 46_inc_dec.md
  | incZp (b : Byte)
  | incZpX (b : Byte)
  | incAbs (w : Word)
  | incAbsX (w : Word)
  | inx
  | iny
  | decZp (b : Byte)
  | decZpX (b : Byte)
  | decAbs (w : Word)
  | decAbsX (w : Word)
  | dex
  | dey
  -- Stack: 47_stack.md
  | pha
  | php
  | pla
  | plp
  deriving DecidableEq, Repr

/-- The semantic operation an instruction performs (41_execution_cycle.md R160). -/
def Instr.op : Instr → Op
  | .adcImm _ | .adcZp _ | .adcZpX _ | .adcAbs _ | .adcAbsX _ | .adcAbsY _ | .adcIndX _ | .adcIndY _ => .ADC
  | .andImm _ | .andZp _ | .andZpX _ | .andAbs _ | .andAbsX _ | .andAbsY _ | .andIndX _ | .andIndY _ => .AND
  | .eorImm _ | .eorZp _ | .eorZpX _ | .eorAbs _ | .eorAbsX _ | .eorAbsY _ | .eorIndX _ | .eorIndY _ => .EOR
  | .oraImm _ | .oraZp _ | .oraZpX _ | .oraAbs _ | .oraAbsX _ | .oraAbsY _ | .oraIndX _ | .oraIndY _ => .ORA
  | .sbcImm _ | .sbcZp _ | .sbcZpX _ | .sbcAbs _ | .sbcAbsX _ | .sbcAbsY _ | .sbcIndX _ | .sbcIndY _ => .SBC
  | .aslAcc | .aslZp _ | .aslZpX _ | .aslAbs _ | .aslAbsX _ => .ASL
  | .lsrAcc | .lsrZp _ | .lsrZpX _ | .lsrAbs _ | .lsrAbsX _ => .LSR
  | .rolAcc | .rolZp _ | .rolZpX _ | .rolAbs _ | .rolAbsX _ => .ROL
  | .rorAcc | .rorZp _ | .rorZpX _ | .rorAbs _ | .rorAbsX _ => .ROR
  | .ldaImm _ | .ldaZp _ | .ldaZpX _ | .ldaAbs _ | .ldaAbsX _ | .ldaAbsY _ | .ldaIndX _ | .ldaIndY _ => .LDA
  | .ldxImm _ | .ldxZp _ | .ldxZpY _ | .ldxAbs _ | .ldxAbsY _ => .LDX
  | .ldyImm _ | .ldyZp _ | .ldyZpX _ | .ldyAbs _ | .ldyAbsX _ => .LDY
  | .staZp _ | .staZpX _ | .staAbs _ | .staAbsX _ | .staAbsY _ | .staIndX _ | .staIndY _ => .STA
  | .stxZp _ | .stxZpY _ | .stxAbs _ => .STX
  | .styZp _ | .styZpX _ | .styAbs _ => .STY
  | .tax => .TAX
  | .tay => .TAY
  | .tsx => .TSX
  | .txa => .TXA
  | .txs => .TXS
  | .tya => .TYA
  | .incZp _ | .incZpX _ | .incAbs _ | .incAbsX _ => .INC
  | .inx => .INX
  | .iny => .INY
  | .decZp _ | .decZpX _ | .decAbs _ | .decAbsX _ => .DEC
  | .dex => .DEX
  | .dey => .DEY
  | .pha => .PHA
  | .php => .PHP
  | .pla => .PLA
  | .plp => .PLP

/-- The operand form of an instruction, or `none` for the implied and accumulator-only forms (R160). -/
def Instr.operand? : Instr → Option Operand
  | .tax | .tay | .tsx | .txa | .txs | .tya | .inx | .iny | .dex | .dey | .pha | .php | .pla | .plp => none
  | .aslAcc | .lsrAcc | .rolAcc | .rorAcc => none
  | .adcImm b | .andImm b | .eorImm b | .oraImm b | .sbcImm b | .ldaImm b | .ldxImm b
  | .ldyImm b => some (.immediate b)
  | .adcZp b | .andZp b | .eorZp b | .oraZp b | .sbcZp b | .aslZp b | .lsrZp b | .rolZp b | .rorZp b
  | .ldaZp b | .ldxZp b | .ldyZp b | .staZp b | .stxZp b | .styZp b | .incZp b
  | .decZp b => some (.zeroPage b)
  | .adcZpX b | .andZpX b | .eorZpX b | .oraZpX b | .sbcZpX b | .aslZpX b | .lsrZpX b | .rolZpX b | .rorZpX b
  | .ldaZpX b | .ldyZpX b | .staZpX b | .styZpX b | .incZpX b | .decZpX b => some (.zeroPageX b)
  | .ldxZpY b | .stxZpY b => some (.zeroPageY b)
  | .adcAbs w | .andAbs w | .eorAbs w | .oraAbs w | .sbcAbs w | .aslAbs w | .lsrAbs w | .rolAbs w | .rorAbs w
  | .ldaAbs w | .ldxAbs w | .ldyAbs w | .staAbs w | .stxAbs w | .styAbs w | .incAbs w
  | .decAbs w => some (.absolute w)
  | .adcAbsX w | .andAbsX w | .eorAbsX w | .oraAbsX w | .sbcAbsX w | .aslAbsX w | .lsrAbsX w | .rolAbsX w
  | .rorAbsX w | .ldaAbsX w | .ldyAbsX w | .staAbsX w | .incAbsX w | .decAbsX w => some (.absoluteX w)
  | .adcAbsY w | .andAbsY w | .eorAbsY w | .oraAbsY w | .sbcAbsY w | .ldaAbsY w | .ldxAbsY w
  | .staAbsY w => some (.absoluteY w)
  | .adcIndX b | .andIndX b | .eorIndX b | .oraIndX b | .sbcIndX b | .ldaIndX b
  | .staIndX b => some (.indexedIndirect b)
  | .adcIndY b | .andIndY b | .eorIndY b | .oraIndY b | .sbcIndY b | .ldaIndY b
  | .staIndY b => some (.indirectIndexed b)

/-- The addressing mode of an instruction, or none (R160). -/
def Instr.mode? (i : Instr) : Option Mode := i.operand?.map Operand.mode

end Sys2Proof
end

