-- ==== Sys2Proof/WellFormed.lean ====
section
/-! DEFINITION. Which (mnemonic, operand form) pairs are instructions of this core (30_encoding.md R102, R103). An
operand's width is in its type, and every operand value is legal (R94), so the pair is all there is to check. -/

namespace Sys2Proof

/-- The addressing modes of each mnemonic, in the order of R102. -/
def Op.modes : Op → List (Option Mode)
  | .ADC | .AND | .EOR | .ORA | .SBC =>
      [some .immediate, some .zeroPage, some .zeroPageX, some .absolute, some .absoluteX, some .absoluteY,
      some .indexedIndirect, some .indirectIndexed]
  | .ASL | .LSR | .ROL | .ROR =>
      [none, some .zeroPage, some .zeroPageX, some .absolute, some .absoluteX]
  | .LDA =>
      [some .immediate, some .zeroPage, some .zeroPageX, some .absolute, some .absoluteX, some .absoluteY,
      some .indexedIndirect, some .indirectIndexed]
  | .LDX =>
      [some .immediate, some .zeroPage, some .zeroPageY, some .absolute, some .absoluteY]
  | .LDY =>
      [some .immediate, some .zeroPage, some .zeroPageX, some .absolute, some .absoluteX]
  | .STA =>
      [some .zeroPage, some .zeroPageX, some .absolute, some .absoluteX, some .absoluteY,
      some .indexedIndirect, some .indirectIndexed]
  | .STX =>
      [some .zeroPage, some .zeroPageY, some .absolute]
  | .STY =>
      [some .zeroPage, some .zeroPageX, some .absolute]
  | .TAX | .TAY | .TSX | .TXA | .TXS | .TYA =>
      [none]
  | .INC =>
      [some .zeroPage, some .zeroPageX, some .absolute, some .absoluteX]
  | .INX | .INY =>
      [none]
  | .DEC =>
      [some .zeroPage, some .zeroPageX, some .absolute, some .absoluteX]
  | .DEX | .DEY | .PHA | .PHP | .PLA | .PLP =>
      [none]

/-- A mnemonic with an operand form, as an assembler line spells it or a slot of the dispatch table pairs it. It may be
no instruction of this core. -/
structure Form where
  op : Op
  operand : Option Operand
  deriving DecidableEq, Repr

/-- The form is one of the 113 pairs of R102: its mnemonic has its mode. -/
def Form.wellFormed (f : Form) : Bool := f.op.modes.contains (f.operand.map Operand.mode)

/-- The form of an instruction. -/
def Instr.form (i : Instr) : Form := ⟨i.op, i.operand?⟩

/-- An instruction is well-formed when its form is. -/
def Instr.wellFormed (i : Instr) : Bool := i.form.wellFormed

end Sys2Proof
end

