-- ==== Sys2Proof/Decode.lean ====
section
/-! DEFINITION. The dispatch table of 30_encoding.md R98 (16 rows by high digit), the decoder of any bytes, and the
encoder. The table is the only source of an instruction's length and meaning: the opcode byte has no sub-fields (R92). -/

namespace Sys2Proof

/-! ## Bytes, words and operand widths -/

/-- `lo | (hi << 8)`: the byte at the lower address is bits 7:0 (R14, 20_memory.md R61). -/
def Word.ofBytes (lo hi : Byte) : Word := lo.setWidth 16 ||| (hi.setWidth 16 <<< 8)

/-- `zext_16(b)`: the byte unchanged, as a word (R14). -/
def Byte.toWord (b : Byte) : Word := b.setWidth 16

/-- The operand width `w` of a mode: how many operand bytes follow the opcode (40_addressing_modes.md R130). -/
def Mode.width : Mode → Nat
  | .immediate | .zeroPage | .zeroPageX | .zeroPageY => 1
  | .absolute | .absoluteX | .absoluteY => 2
  | .relative => 1
  | .indirect => 2
  | .indexedIndirect | .indirectIndexed => 1

/-- The operand width of an operand form (R130). -/
def Operand.width (o : Operand) : Nat := o.mode.width

/-- The operand width of a slot's mode, or 0 where the slot has none (R130, R144). -/
def modeWidth : Option Mode → Nat
  | none => 0
  | some m => m.width

/-- The operand width `w` of an instruction (R130). -/
def Instr.width (i : Instr) : Nat := modeWidth i.mode?

/-! ## The dispatch table -/

/-- One populated slot: an opcode byte with its (semantic operation, addressing mode or none) pair (41_execution_cycle.md
R160). -/
structure Slot where
  opcode : Byte
  op : Op
  mode : Option Mode
  deriving DecidableEq, Repr

/-- Slots 0x00 to 0x0F of the map of R98. -/
def tableRow0 : List Slot :=
  [⟨0x01, .ORA, some .indexedIndirect⟩, ⟨0x05, .ORA, some .zeroPage⟩, ⟨0x06, .ASL, some .zeroPage⟩,
  ⟨0x08, .PHP, none⟩, ⟨0x09, .ORA, some .immediate⟩, ⟨0x0A, .ASL, none⟩, ⟨0x0D, .ORA, some .absolute⟩,
  ⟨0x0E, .ASL, some .absolute⟩]

/-- Slots 0x10 to 0x1F of the map of R98. -/
def tableRow1 : List Slot :=
  [⟨0x11, .ORA, some .indirectIndexed⟩, ⟨0x15, .ORA, some .zeroPageX⟩, ⟨0x16, .ASL, some .zeroPageX⟩,
  ⟨0x19, .ORA, some .absoluteY⟩, ⟨0x1D, .ORA, some .absoluteX⟩, ⟨0x1E, .ASL, some .absoluteX⟩]

/-- Slots 0x20 to 0x2F of the map of R98. -/
def tableRow2 : List Slot :=
  [⟨0x21, .AND, some .indexedIndirect⟩, ⟨0x25, .AND, some .zeroPage⟩, ⟨0x26, .ROL, some .zeroPage⟩,
  ⟨0x28, .PLP, none⟩, ⟨0x29, .AND, some .immediate⟩, ⟨0x2A, .ROL, none⟩, ⟨0x2D, .AND, some .absolute⟩,
  ⟨0x2E, .ROL, some .absolute⟩]

/-- Slots 0x30 to 0x3F of the map of R98. -/
def tableRow3 : List Slot :=
  [⟨0x31, .AND, some .indirectIndexed⟩, ⟨0x35, .AND, some .zeroPageX⟩, ⟨0x36, .ROL, some .zeroPageX⟩,
  ⟨0x39, .AND, some .absoluteY⟩, ⟨0x3D, .AND, some .absoluteX⟩, ⟨0x3E, .ROL, some .absoluteX⟩]

/-- Slots 0x40 to 0x4F of the map of R98. -/
def tableRow4 : List Slot :=
  [⟨0x41, .EOR, some .indexedIndirect⟩, ⟨0x45, .EOR, some .zeroPage⟩, ⟨0x46, .LSR, some .zeroPage⟩,
  ⟨0x48, .PHA, none⟩, ⟨0x49, .EOR, some .immediate⟩, ⟨0x4A, .LSR, none⟩, ⟨0x4D, .EOR, some .absolute⟩,
  ⟨0x4E, .LSR, some .absolute⟩]

/-- Slots 0x50 to 0x5F of the map of R98. -/
def tableRow5 : List Slot :=
  [⟨0x51, .EOR, some .indirectIndexed⟩, ⟨0x55, .EOR, some .zeroPageX⟩, ⟨0x56, .LSR, some .zeroPageX⟩,
  ⟨0x59, .EOR, some .absoluteY⟩, ⟨0x5D, .EOR, some .absoluteX⟩, ⟨0x5E, .LSR, some .absoluteX⟩]

/-- Slots 0x60 to 0x6F of the map of R98. -/
def tableRow6 : List Slot :=
  [⟨0x61, .ADC, some .indexedIndirect⟩, ⟨0x65, .ADC, some .zeroPage⟩, ⟨0x66, .ROR, some .zeroPage⟩,
  ⟨0x68, .PLA, none⟩, ⟨0x69, .ADC, some .immediate⟩, ⟨0x6A, .ROR, none⟩, ⟨0x6D, .ADC, some .absolute⟩,
  ⟨0x6E, .ROR, some .absolute⟩]

/-- Slots 0x70 to 0x7F of the map of R98. -/
def tableRow7 : List Slot :=
  [⟨0x71, .ADC, some .indirectIndexed⟩, ⟨0x75, .ADC, some .zeroPageX⟩, ⟨0x76, .ROR, some .zeroPageX⟩,
  ⟨0x79, .ADC, some .absoluteY⟩, ⟨0x7D, .ADC, some .absoluteX⟩, ⟨0x7E, .ROR, some .absoluteX⟩]

/-- Slots 0x80 to 0x8F of the map of R98. -/
def tableRow8 : List Slot :=
  [⟨0x81, .STA, some .indexedIndirect⟩, ⟨0x84, .STY, some .zeroPage⟩, ⟨0x85, .STA, some .zeroPage⟩,
  ⟨0x86, .STX, some .zeroPage⟩, ⟨0x88, .DEY, none⟩, ⟨0x8A, .TXA, none⟩, ⟨0x8C, .STY, some .absolute⟩,
  ⟨0x8D, .STA, some .absolute⟩, ⟨0x8E, .STX, some .absolute⟩]

/-- Slots 0x90 to 0x9F of the map of R98. -/
def tableRow9 : List Slot :=
  [⟨0x91, .STA, some .indirectIndexed⟩, ⟨0x94, .STY, some .zeroPageX⟩, ⟨0x95, .STA, some .zeroPageX⟩,
  ⟨0x96, .STX, some .zeroPageY⟩, ⟨0x98, .TYA, none⟩, ⟨0x99, .STA, some .absoluteY⟩, ⟨0x9A, .TXS, none⟩,
  ⟨0x9D, .STA, some .absoluteX⟩]

/-- Slots 0xA0 to 0xAF of the map of R98. -/
def tableRowA : List Slot :=
  [⟨0xA0, .LDY, some .immediate⟩, ⟨0xA1, .LDA, some .indexedIndirect⟩, ⟨0xA2, .LDX, some .immediate⟩,
  ⟨0xA4, .LDY, some .zeroPage⟩, ⟨0xA5, .LDA, some .zeroPage⟩, ⟨0xA6, .LDX, some .zeroPage⟩,
  ⟨0xA8, .TAY, none⟩, ⟨0xA9, .LDA, some .immediate⟩, ⟨0xAA, .TAX, none⟩, ⟨0xAC, .LDY, some .absolute⟩,
  ⟨0xAD, .LDA, some .absolute⟩, ⟨0xAE, .LDX, some .absolute⟩]

/-- Slots 0xB0 to 0xBF of the map of R98. -/
def tableRowB : List Slot :=
  [⟨0xB1, .LDA, some .indirectIndexed⟩, ⟨0xB4, .LDY, some .zeroPageX⟩, ⟨0xB5, .LDA, some .zeroPageX⟩,
  ⟨0xB6, .LDX, some .zeroPageY⟩, ⟨0xB9, .LDA, some .absoluteY⟩, ⟨0xBA, .TSX, none⟩,
  ⟨0xBC, .LDY, some .absoluteX⟩, ⟨0xBD, .LDA, some .absoluteX⟩, ⟨0xBE, .LDX, some .absoluteY⟩]

/-- Slots 0xC0 to 0xCF of the map of R98. -/
def tableRowC : List Slot :=
  [⟨0xC6, .DEC, some .zeroPage⟩, ⟨0xC8, .INY, none⟩, ⟨0xCA, .DEX, none⟩, ⟨0xCE, .DEC, some .absolute⟩]

/-- Slots 0xD0 to 0xDF of the map of R98. -/
def tableRowD : List Slot :=
  [⟨0xD6, .DEC, some .zeroPageX⟩, ⟨0xDE, .DEC, some .absoluteX⟩]

/-- Slots 0xE0 to 0xEF of the map of R98. -/
def tableRowE : List Slot :=
  [⟨0xE1, .SBC, some .indexedIndirect⟩, ⟨0xE5, .SBC, some .zeroPage⟩, ⟨0xE6, .INC, some .zeroPage⟩,
  ⟨0xE8, .INX, none⟩, ⟨0xE9, .SBC, some .immediate⟩, ⟨0xED, .SBC, some .absolute⟩,
  ⟨0xEE, .INC, some .absolute⟩]

/-- Slots 0xF0 to 0xFF of the map of R98. -/
def tableRowF : List Slot :=
  [⟨0xF1, .SBC, some .indirectIndexed⟩, ⟨0xF5, .SBC, some .zeroPageX⟩, ⟨0xF6, .INC, some .zeroPageX⟩,
  ⟨0xF9, .SBC, some .absoluteY⟩, ⟨0xFD, .SBC, some .absoluteX⟩, ⟨0xFE, .INC, some .absoluteX⟩]

/-- The 113 populated slots (R98). Every other opcode byte is an empty slot (R99). -/
def dispatchTable : List Slot :=
  tableRow0 ++ tableRow1 ++ tableRow2 ++ tableRow3 ++ tableRow4 ++ tableRow5 ++ tableRow6 ++ tableRow7 ++
  tableRow8 ++ tableRow9 ++ tableRowA ++ tableRowB ++ tableRowC ++ tableRowD ++ tableRowE ++ tableRowF

/-- The slot of an opcode byte: empty, or its (op, mode) pair (R95). -/
def slot (opcode : Byte) : Option (Op × Option Mode) :=
  (dispatchTable.find? fun r => r.opcode == opcode).map fun r => (r.op, r.mode)

/-- The operand of a mode from the operand bytes, little-endian (R93, R61). Answers the operand and the bytes
after it, or `none` where bytes are lacking. -/
def operandOfBytes : Mode → List Byte → Option (Operand × List Byte)
  | .immediate, b :: rest => some (.immediate b, rest)
  | .zeroPage, b :: rest => some (.zeroPage b, rest)
  | .zeroPageX, b :: rest => some (.zeroPageX b, rest)
  | .zeroPageY, b :: rest => some (.zeroPageY b, rest)
  | .relative, b :: rest => some (.relative b, rest)
  | .indexedIndirect, b :: rest => some (.indexedIndirect b, rest)
  | .indirectIndexed, b :: rest => some (.indirectIndexed b, rest)
  | .absolute, lo :: hi :: rest => some (.absolute (Word.ofBytes lo hi), rest)
  | .absoluteX, lo :: hi :: rest => some (.absoluteX (Word.ofBytes lo hi), rest)
  | .absoluteY, lo :: hi :: rest => some (.absoluteY (Word.ofBytes lo hi), rest)
  | .indirect, lo :: hi :: rest => some (.indirect (Word.ofBytes lo hi), rest)
  | _, _ => none

/-- The operand of a slot's mode: none where the slot has no mode, which reads no operand byte (R144). -/
def slotOperand : Option Mode → List Byte → Option (Option Operand × List Byte)
  | none, rest => some (none, rest)
  | some m, rest => (operandOfBytes m rest).map fun (o, rest) => (some o, rest)

/-- The instruction of a (mnemonic, operand form) pair, where R102 has it. -/
def Form.toInstr? (f : Form) : Option Instr :=
  match f.op with
  | .ADC =>
    match f.operand with
    | some (.immediate b) => some (.adcImm b)
    | some (.zeroPage b) => some (.adcZp b)
    | some (.zeroPageX b) => some (.adcZpX b)
    | some (.absolute w) => some (.adcAbs w)
    | some (.absoluteX w) => some (.adcAbsX w)
    | some (.absoluteY w) => some (.adcAbsY w)
    | some (.indexedIndirect b) => some (.adcIndX b)
    | some (.indirectIndexed b) => some (.adcIndY b)
    | _ => none
  | .AND =>
    match f.operand with
    | some (.immediate b) => some (.andImm b)
    | some (.zeroPage b) => some (.andZp b)
    | some (.zeroPageX b) => some (.andZpX b)
    | some (.absolute w) => some (.andAbs w)
    | some (.absoluteX w) => some (.andAbsX w)
    | some (.absoluteY w) => some (.andAbsY w)
    | some (.indexedIndirect b) => some (.andIndX b)
    | some (.indirectIndexed b) => some (.andIndY b)
    | _ => none
  | .EOR =>
    match f.operand with
    | some (.immediate b) => some (.eorImm b)
    | some (.zeroPage b) => some (.eorZp b)
    | some (.zeroPageX b) => some (.eorZpX b)
    | some (.absolute w) => some (.eorAbs w)
    | some (.absoluteX w) => some (.eorAbsX w)
    | some (.absoluteY w) => some (.eorAbsY w)
    | some (.indexedIndirect b) => some (.eorIndX b)
    | some (.indirectIndexed b) => some (.eorIndY b)
    | _ => none
  | .ORA =>
    match f.operand with
    | some (.immediate b) => some (.oraImm b)
    | some (.zeroPage b) => some (.oraZp b)
    | some (.zeroPageX b) => some (.oraZpX b)
    | some (.absolute w) => some (.oraAbs w)
    | some (.absoluteX w) => some (.oraAbsX w)
    | some (.absoluteY w) => some (.oraAbsY w)
    | some (.indexedIndirect b) => some (.oraIndX b)
    | some (.indirectIndexed b) => some (.oraIndY b)
    | _ => none
  | .SBC =>
    match f.operand with
    | some (.immediate b) => some (.sbcImm b)
    | some (.zeroPage b) => some (.sbcZp b)
    | some (.zeroPageX b) => some (.sbcZpX b)
    | some (.absolute w) => some (.sbcAbs w)
    | some (.absoluteX w) => some (.sbcAbsX w)
    | some (.absoluteY w) => some (.sbcAbsY w)
    | some (.indexedIndirect b) => some (.sbcIndX b)
    | some (.indirectIndexed b) => some (.sbcIndY b)
    | _ => none
  | .ASL =>
    match f.operand with
    | none => some .aslAcc
    | some (.zeroPage b) => some (.aslZp b)
    | some (.zeroPageX b) => some (.aslZpX b)
    | some (.absolute w) => some (.aslAbs w)
    | some (.absoluteX w) => some (.aslAbsX w)
    | _ => none
  | .LSR =>
    match f.operand with
    | none => some .lsrAcc
    | some (.zeroPage b) => some (.lsrZp b)
    | some (.zeroPageX b) => some (.lsrZpX b)
    | some (.absolute w) => some (.lsrAbs w)
    | some (.absoluteX w) => some (.lsrAbsX w)
    | _ => none
  | .ROL =>
    match f.operand with
    | none => some .rolAcc
    | some (.zeroPage b) => some (.rolZp b)
    | some (.zeroPageX b) => some (.rolZpX b)
    | some (.absolute w) => some (.rolAbs w)
    | some (.absoluteX w) => some (.rolAbsX w)
    | _ => none
  | .ROR =>
    match f.operand with
    | none => some .rorAcc
    | some (.zeroPage b) => some (.rorZp b)
    | some (.zeroPageX b) => some (.rorZpX b)
    | some (.absolute w) => some (.rorAbs w)
    | some (.absoluteX w) => some (.rorAbsX w)
    | _ => none
  | .LDA =>
    match f.operand with
    | some (.immediate b) => some (.ldaImm b)
    | some (.zeroPage b) => some (.ldaZp b)
    | some (.zeroPageX b) => some (.ldaZpX b)
    | some (.absolute w) => some (.ldaAbs w)
    | some (.absoluteX w) => some (.ldaAbsX w)
    | some (.absoluteY w) => some (.ldaAbsY w)
    | some (.indexedIndirect b) => some (.ldaIndX b)
    | some (.indirectIndexed b) => some (.ldaIndY b)
    | _ => none
  | .LDX =>
    match f.operand with
    | some (.immediate b) => some (.ldxImm b)
    | some (.zeroPage b) => some (.ldxZp b)
    | some (.zeroPageY b) => some (.ldxZpY b)
    | some (.absolute w) => some (.ldxAbs w)
    | some (.absoluteY w) => some (.ldxAbsY w)
    | _ => none
  | .LDY =>
    match f.operand with
    | some (.immediate b) => some (.ldyImm b)
    | some (.zeroPage b) => some (.ldyZp b)
    | some (.zeroPageX b) => some (.ldyZpX b)
    | some (.absolute w) => some (.ldyAbs w)
    | some (.absoluteX w) => some (.ldyAbsX w)
    | _ => none
  | .STA =>
    match f.operand with
    | some (.zeroPage b) => some (.staZp b)
    | some (.zeroPageX b) => some (.staZpX b)
    | some (.absolute w) => some (.staAbs w)
    | some (.absoluteX w) => some (.staAbsX w)
    | some (.absoluteY w) => some (.staAbsY w)
    | some (.indexedIndirect b) => some (.staIndX b)
    | some (.indirectIndexed b) => some (.staIndY b)
    | _ => none
  | .STX =>
    match f.operand with
    | some (.zeroPage b) => some (.stxZp b)
    | some (.zeroPageY b) => some (.stxZpY b)
    | some (.absolute w) => some (.stxAbs w)
    | _ => none
  | .STY =>
    match f.operand with
    | some (.zeroPage b) => some (.styZp b)
    | some (.zeroPageX b) => some (.styZpX b)
    | some (.absolute w) => some (.styAbs w)
    | _ => none
  | .TAX => match f.operand with | none => some .tax | some _ => none
  | .TAY => match f.operand with | none => some .tay | some _ => none
  | .TSX => match f.operand with | none => some .tsx | some _ => none
  | .TXA => match f.operand with | none => some .txa | some _ => none
  | .TXS => match f.operand with | none => some .txs | some _ => none
  | .TYA => match f.operand with | none => some .tya | some _ => none
  | .INC =>
    match f.operand with
    | some (.zeroPage b) => some (.incZp b)
    | some (.zeroPageX b) => some (.incZpX b)
    | some (.absolute w) => some (.incAbs w)
    | some (.absoluteX w) => some (.incAbsX w)
    | _ => none
  | .INX => match f.operand with | none => some .inx | some _ => none
  | .INY => match f.operand with | none => some .iny | some _ => none
  | .DEC =>
    match f.operand with
    | some (.zeroPage b) => some (.decZp b)
    | some (.zeroPageX b) => some (.decZpX b)
    | some (.absolute w) => some (.decAbs w)
    | some (.absoluteX w) => some (.decAbsX w)
    | _ => none
  | .DEX => match f.operand with | none => some .dex | some _ => none
  | .DEY => match f.operand with | none => some .dey | some _ => none
  | .PHA => match f.operand with | none => some .pha | some _ => none
  | .PHP => match f.operand with | none => some .php | some _ => none
  | .PLA => match f.operand with | none => some .pla | some _ => none
  | .PLP => match f.operand with | none => some .plp | some _ => none

/-- Why bytes are no instruction. -/
inductive DecodeError where
  /-- There is no opcode byte. -/
  | noBytes
  /-- The slot of the opcode byte is empty: an illegal opcode (R99). -/
  | emptySlot (opcode : Byte)
  /-- The slot is populated and operand bytes of its mode are lacking. -/
  | truncated (opcode : Byte)
  deriving DecidableEq, Repr

/-- Decode an instruction from its opcode byte and the bytes after it: look up the slot, take the operand of its mode.
Answers the instruction and the bytes after it (R90, R95). The operand bytes never reject an instruction (R94). A pair
that R102 lacks would be an empty slot. The table holds none. -/
def decodeFrom (opcode : Byte) (rest : List Byte) : Except DecodeError (Instr × List Byte) :=
  match slot opcode with
  | none => .error (.emptySlot opcode)
  | some (op, mode) =>
    match slotOperand mode rest with
    | none => .error (.truncated opcode)
    | some (operand, rest) =>
      match Form.toInstr? ⟨op, operand⟩ with
      | none => .error (.emptySlot opcode)
      | some i => .ok (i, rest)

/-- Decode the first instruction of any list of bytes. -/
def decode : List Byte → Except DecodeError (Instr × List Byte)
  | [] => .error .noBytes
  | opcode :: rest => decodeFrom opcode rest

/-- The bytes of an instruction whose bits are `w`, bit 0 the least significant bit of the first byte, every bit from
`nbits` on 0, laid out to the longest instruction of three bytes (R90, R91). -/
def tableWordBytes (nbits w : Nat) : List Byte :=
  let v := w % 2 ^ nbits
  [BitVec.ofNat 8 v, BitVec.ofNat 8 (v / 0x100), BitVec.ofNat 8 (v / 0x10000)]

/-- The instruction the decoder reads from a word of the opcode table. -/
def decodeTableWord (nbits w : Nat) : Option Instr :=
  match decode (tableWordBytes nbits w) with
  | .ok (i, _) => some i
  | .error _ => none

/-! ## The encoder -/

/-- The opcode byte of each instruction, as R102 lists it by mnemonic. -/
def Instr.opcode : Instr → Byte
  | .adcImm _ => 0x69 | .adcZp _ => 0x65 | .adcZpX _ => 0x75 | .adcAbs _ => 0x6D | .adcAbsX _ => 0x7D
  | .adcAbsY _ => 0x79 | .adcIndX _ => 0x61 | .adcIndY _ => 0x71
  | .andImm _ => 0x29 | .andZp _ => 0x25 | .andZpX _ => 0x35 | .andAbs _ => 0x2D | .andAbsX _ => 0x3D
  | .andAbsY _ => 0x39 | .andIndX _ => 0x21 | .andIndY _ => 0x31
  | .eorImm _ => 0x49 | .eorZp _ => 0x45 | .eorZpX _ => 0x55 | .eorAbs _ => 0x4D | .eorAbsX _ => 0x5D
  | .eorAbsY _ => 0x59 | .eorIndX _ => 0x41 | .eorIndY _ => 0x51
  | .oraImm _ => 0x09 | .oraZp _ => 0x05 | .oraZpX _ => 0x15 | .oraAbs _ => 0x0D | .oraAbsX _ => 0x1D
  | .oraAbsY _ => 0x19 | .oraIndX _ => 0x01 | .oraIndY _ => 0x11
  | .sbcImm _ => 0xE9 | .sbcZp _ => 0xE5 | .sbcZpX _ => 0xF5 | .sbcAbs _ => 0xED | .sbcAbsX _ => 0xFD
  | .sbcAbsY _ => 0xF9 | .sbcIndX _ => 0xE1 | .sbcIndY _ => 0xF1
  | .aslAcc => 0x0A | .aslZp _ => 0x06 | .aslZpX _ => 0x16 | .aslAbs _ => 0x0E | .aslAbsX _ => 0x1E
  | .lsrAcc => 0x4A | .lsrZp _ => 0x46 | .lsrZpX _ => 0x56 | .lsrAbs _ => 0x4E | .lsrAbsX _ => 0x5E
  | .rolAcc => 0x2A | .rolZp _ => 0x26 | .rolZpX _ => 0x36 | .rolAbs _ => 0x2E | .rolAbsX _ => 0x3E
  | .rorAcc => 0x6A | .rorZp _ => 0x66 | .rorZpX _ => 0x76 | .rorAbs _ => 0x6E | .rorAbsX _ => 0x7E
  | .ldaImm _ => 0xA9 | .ldaZp _ => 0xA5 | .ldaZpX _ => 0xB5 | .ldaAbs _ => 0xAD | .ldaAbsX _ => 0xBD
  | .ldaAbsY _ => 0xB9 | .ldaIndX _ => 0xA1 | .ldaIndY _ => 0xB1
  | .ldxImm _ => 0xA2 | .ldxZp _ => 0xA6 | .ldxZpY _ => 0xB6 | .ldxAbs _ => 0xAE | .ldxAbsY _ => 0xBE
  | .ldyImm _ => 0xA0 | .ldyZp _ => 0xA4 | .ldyZpX _ => 0xB4 | .ldyAbs _ => 0xAC | .ldyAbsX _ => 0xBC
  | .staZp _ => 0x85 | .staZpX _ => 0x95 | .staAbs _ => 0x8D | .staAbsX _ => 0x9D | .staAbsY _ => 0x99
  | .staIndX _ => 0x81 | .staIndY _ => 0x91
  | .stxZp _ => 0x86 | .stxZpY _ => 0x96 | .stxAbs _ => 0x8E
  | .styZp _ => 0x84 | .styZpX _ => 0x94 | .styAbs _ => 0x8C
  | .tax => 0xAA
  | .tay => 0xA8
  | .tsx => 0xBA
  | .txa => 0x8A
  | .txs => 0x9A
  | .tya => 0x98
  | .incZp _ => 0xE6 | .incZpX _ => 0xF6 | .incAbs _ => 0xEE | .incAbsX _ => 0xFE
  | .inx => 0xE8
  | .iny => 0xC8
  | .decZp _ => 0xC6 | .decZpX _ => 0xD6 | .decAbs _ => 0xCE | .decAbsX _ => 0xDE
  | .dex => 0xCA
  | .dey => 0x88
  | .pha => 0x48
  | .php => 0x08
  | .pla => 0x68
  | .plp => 0x28

/-- The operand bytes of an operand form: one byte, or a word low byte first (R91). -/
def Operand.bytes : Operand → List Byte
  | .immediate b | .zeroPage b | .zeroPageX b | .zeroPageY b => [b]
  | .relative b | .indexedIndirect b | .indirectIndexed b => [b]
  | .absolute w | .absoluteX w | .absoluteY w | .indirect w => [w.setWidth 8, (w >>> 8).setWidth 8]

/-- The operand bytes of an instruction. -/
def Instr.operandBytes (i : Instr) : List Byte :=
  match i.operand? with
  | none => []
  | some o => o.bytes

/-- The bytes of an instruction: its opcode byte, then its operand bytes (R91, R116). -/
def encode (i : Instr) : List Byte := i.opcode :: i.operandBytes

end Sys2Proof
end

