-- ==== Sys2Proof/Machine/State.lean ====
section
/-! DEFINITION. The state of the core, (A, X, Y, PC, SP, P, M) (10_state.md R46), the faults (60_exceptions.md R400)
and the state of a fresh session (70_reset_and_hazards.md R500). -/

namespace Sys2Proof.Machine

/-- Memory as (address, byte) pairs in one canonical form: addresses strictly rising and below 0x10000, no entry
equal to what an unlisted address reads as (`Memory.wf`). It stands for the 65,536 cells of R41. -/
abbrev Memory := List Host.Cell

/-- The CPU state (10_state.md R46). The core has no other state: no flag outside P, no fault latch, no pending
interrupt (R43, R44). -/
structure State where
  /-- The accumulator (R30). -/
  a : Byte
  /-- The index register X (R30). -/
  x : Byte
  /-- The index register Y (R30). -/
  y : Byte
  /-- The program counter: between instructions, the address of the next opcode byte (R33). -/
  pc : Word
  /-- The stack pointer: an offset in the page at 0x0100 (R37). -/
  sp : Byte
  /-- The status register: 8 bits of storage with no fields (R39). -/
  p : Byte
  /-- The memory M[0x0000..0xFFFF] (R41). -/
  mem : Memory
  deriving DecidableEq, Repr

/-- Where a fault arises: `PC_op` and the opcode byte, which every fault records (60_exceptions.md R408). -/
structure Site where
  pcOp : Word
  opcode : Byte
  deriving DecidableEq, Repr

/-- The seven fault kinds of 60_exceptions.md R400, each with what it records. A fault stops the current `tick`, and
the state stays as before the instruction (R410). Each is the spec's own fault, so raising it is safe: where the source
document might go on, a claim becomes unprovable, never false (92_eei_decisions.md D1, D6, D7, D8, D11). -/
inductive Fault where
  /-- Code 1. Raised by the opcode fetch at an empty slot (R401). Safe. -/
  | illegalOpcode (site : Site)
  /-- Code 2. Raised before operand fetch when `PC_op + 1 + w > 0xFFFF` (R402). Safe. -/
  | pcOverflow (site : Site)
  /-- Code 3. Raised by the resolver at an address outside 0x0000 to 0xFFFF, which it records (R403). Safe. -/
  | addressOverflow (site : Site) (value : Int)
  /-- Code 4. Raised by the resolver at a zero-page pointer whose wrap is unsettled, which it records (R404). Safe. -/
  | wrapUnsettled (site : Site) (value : Int)
  /-- Code 5. Raised by a push (PHA, PHP) at SP = 0x00, which it records (R405). Safe. -/
  | stackOverflow (site : Site) (value : Int)
  /-- Code 6. Raised by a pop (PLA, PLP) at SP = 0xFF, which it records (R406). Safe. -/
  | stackUnderflow (site : Site) (value : Int)
  /-- Code 7. Raised by `fit8` in ADC, SBC, ASL, INC, DEC, INX, INY at an unmasked result outside 0x00 to 0xFF, which it
  records (R407). Safe. -/
  | widthOverflow (site : Site) (value : Int)
  deriving DecidableEq, Repr

/-- The fault record returned to the host: (code, PC_op, opcode, value) (60_exceptions.md R408). -/
structure FaultRecord where
  code : Nat
  pcOp : Word
  opcode : Byte
  value : Option Int
  deriving DecidableEq, Repr

/-- Why the machine has no meaning for an instruction. -/
inductive Refusal where
  /-- The instruction has no meaning in this model yet. Raised by no arm of `exec`: every instruction is modelled. Safe. -/
  | notModelled (mnemonic : String)
  deriving DecidableEq, Repr

/-- The state of a fresh session (70_reset_and_hazards.md R500): A, X, Y, P zero, SP at the top of the stack page, PC at
the load address, memory all 0x00, so with nothing listed. X, Y, P and SP are the spec's own decisions D4 and D5. -/
def State.reset : State where
  a := 0x00
  x := 0x00
  y := 0x00
  pc := Config.loadAddress
  sp := Config.stackReset
  p := 0x00
  mem := []

end Sys2Proof.Machine
end

