-- ==== Sys2Proof/Machine/Ops.lean ====
section
/-! DEFINITION. The shared operations over memory and registers, raising a fault, and the cycle that every instruction
runs in (41_execution_cycle.md R164 to R168). -/

namespace Sys2Proof.Machine

/-- What a step answers. -/
abbrev Result := Host.Outcome State Fault Refusal

/-! ## Memory -/

/-- What an address that nothing has written reads as: memory is zero-initialised (10_state.md R41, 20_memory.md R71). -/
def Memory.unwritten : Byte := 0x00

/-- The byte at an address (20_memory.md R64). -/
def Memory.read : Memory → Nat → Byte
  | [], _ => Memory.unwritten
  | (k, v) :: rest, a => if k = a then v else Memory.read rest a

/-- Put an entry before `rest`, unless it says only what an unlisted address reads as. -/
def Memory.cons (a : Nat) (v : Byte) (rest : Memory) : Memory :=
  if v = Memory.unwritten then rest else (a, v) :: rest

/-- Write one byte, keeping the canonical form. -/
def Memory.write : Memory → Nat → Byte → Memory
  | [], a, v => Memory.cons a v []
  | (k, u) :: rest, a, v =>
    if a < k then Memory.cons a v ((k, u) :: rest)
    else if a = k then Memory.cons a v rest
    else (k, u) :: Memory.write rest a v

/-- The canonical form from address `lo` on. -/
def Memory.wfFrom (lo : Nat) : Memory → Bool
  | [] => true
  | (k, v) :: rest =>
    decide (lo ≤ k) && decide (k < Config.memorySize) && (v != Memory.unwritten) && Memory.wfFrom (k + 1) rest

/-- The canonical form: addresses strictly rising and below 0x10000, no entry equal to what an unlisted address reads
as. Equal memories are equal lists. -/
def Memory.wf (m : Memory) : Bool := Memory.wfFrom 0 m

/-- The bytes at `n` addresses from `a` on, as far as memory reaches: there is no byte past 0xFFFF (20_memory.md R70). -/
def Memory.bytes (m : Memory) : Nat → Nat → List Byte
  | _, 0 => []
  | a, n + 1 => if a < Config.memorySize then m.read a :: m.bytes (a + 1) n else []

/-- Store bytes at rising addresses from `a` on, as far as memory reaches. -/
def Memory.store (m : Memory) (a : Nat) : List Byte → Memory
  | [] => m
  | b :: rest => if a < Config.memorySize then (m.write a b).store (a + 1) rest else m

/-! ## The state -/

def State.setA (s : State) (v : Byte) : State := { s with a := v }
def State.setX (s : State) (v : Byte) : State := { s with x := v }
def State.setY (s : State) (v : Byte) : State := { s with y := v }
def State.setPc (s : State) (v : Word) : State := { s with pc := v }
def State.setSp (s : State) (v : Byte) : State := { s with sp := v }
def State.setP (s : State) (v : Byte) : State := { s with p := v }
def State.setMem (s : State) (m : Memory) : State := { s with mem := m }

/-- `MemRead(ea, 1)` (00_scope.md R15). An address is a word, so no access leaves the array (20_memory.md R70). -/
def State.read (s : State) (ea : Word) : Byte := s.mem.read ea.toNat

/-- `MemWrite(ea, 1, v)` (00_scope.md R15). -/
def State.write (s : State) (ea : Word) (v : Byte) : State := s.setMem (s.mem.write ea.toNat v)

/-- `MemRead16(ea)`: the byte at `ea`, then the byte at `ea + 1` as bits 15:8 (00_scope.md R15, 20_memory.md R61). Its
callers have checked that `ea + 1` does not pass 0xFFFF. -/
def State.readWord (s : State) (ea : Word) : Word := Word.ofBytes (s.read ea) (s.read (ea + 1))

/-! ## Faults -/

/-- Raise a fault: the one way an instruction ends without a next state. No state is saved, nothing is pushed, no vector
is read, control returns to the host with the record (60_exceptions.md R410, R411). No write precedes it: every check
stands before the state is changed (00_scope.md R16). There is no return from it (R412). -/
def raise (f : Fault) : Result := .fault f

/-- The site of a fault of the instruction that starts at the state's PC. -/
def siteOf (opcode : Byte) (s : State) : Site := ⟨s.pc, opcode⟩

/-- The numeric code of a fault (60_exceptions.md R400). -/
def Fault.code : Fault → Nat
  | .illegalOpcode _ => 1
  | .pcOverflow _ => 2
  | .addressOverflow _ _ => 3
  | .wrapUnsettled _ _ => 4
  | .stackOverflow _ _ => 5
  | .stackUnderflow _ _ => 6
  | .widthOverflow _ _ => 7

/-- Where a fault arose. -/
def Fault.site : Fault → Site
  | .illegalOpcode site | .pcOverflow site => site
  | .addressOverflow site _ | .wrapUnsettled site _ => site
  | .stackOverflow site _ | .stackUnderflow site _ | .widthOverflow site _ => site

/-- The out-of-range quantity of codes 3 to 7, absent for codes 1 and 2 (60_exceptions.md R408). -/
def Fault.value? : Fault → Option Int
  | .illegalOpcode _ | .pcOverflow _ => none
  | .addressOverflow _ v | .wrapUnsettled _ v => some v
  | .stackOverflow _ v | .stackUnderflow _ v | .widthOverflow _ v => some v

/-- The record of a fault (60_exceptions.md R408). -/
def Fault.record (f : Fault) : FaultRecord := ⟨f.code, f.site.pcOp, f.site.opcode, f.value?⟩

/-- `fit8(v)`: the width check wherever a result is not masked (00_scope.md R17). -/
def fit8 (site : Site) (v : Int) : Except Fault Byte :=
  if 0 ≤ v ∧ v ≤ 0xFF then .ok (BitVec.ofInt 8 v) else .error (.widthOverflow site v)

/-! ## The cycle -/

/-- The instruction of operand width `w` at the state's PC ends before 0xFFFF is passed (41_execution_cycle.md R164). -/
def fitsMemory (w : Nat) (s : State) : Bool := decide (s.pc.toNat + 1 + w ≤ 0xFFFF)

/-- `PC_op + 1 + w`, the PC after a completed instruction (41_execution_cycle.md R166, 90_conflicts.md C1). -/
def nextPc (w : Nat) (s : State) : Word := s.pc + BitVec.ofNat 16 (1 + w)

/-- The part of `tick` that every instruction shares (41_execution_cycle.md R168): PCOverflow first, then the resolver and
the semantic operation (`body`, the writes or the first fault), then the writes and the PC are committed. -/
def complete (site : Site) (w : Nat) (s : State) (body : Except Fault State) : Result :=
  if fitsMemory w s then
    match body with
    | .error f => raise f
    | .ok t => .next (t.setPc (nextPc w s))
  else raise (.pcOverflow site)

/-! ## The stack unit -/

/-- The address of the stack byte that an SP names (10_state.md R37). -/
def stackAddress (sp : Byte) : Word := Config.stackBase + sp.toWord

/-- `push(v)`: write at 0x0100 + SP, then decrement SP. At SP = 0x00 it faults (47_stack.md R300). -/
def push (site : Site) (v : Byte) (s : State) : Except Fault State :=
  if s.sp = 0x00 then .error (.stackOverflow site s.sp.toNat)
  else .ok ((s.write (stackAddress s.sp) v).setSp (s.sp - 1))

/-- `pop()`: increment SP, then read at 0x0100 + SP. At SP = 0xFF it faults (47_stack.md R301). Answers the byte and the
state with SP moved. -/
def pop (site : Site) (s : State) : Except Fault (Byte × State) :=
  if s.sp = 0xFF then .error (.stackUnderflow site s.sp.toNat)
  else .ok (s.read (stackAddress (s.sp + 1)), s.setSp (s.sp + 1))

end Sys2Proof.Machine
end

