-- ==== Sys2Proof/Machine/Operands.lean ====
section
/-! DEFINITION. The addressing-mode resolver (40_addressing_modes.md) for every operand form, and how an instruction reads
and writes through it (R145, 43_shift_rotate.md R224). -/

namespace Sys2Proof.Machine

/-- The operand of a mode from the bytes at `PC_op + 1` (30_encoding.md R93, 40_addressing_modes.md R132). -/
def operandAt (m : Mode) (s : State) : Operand :=
  let b := s.read (s.pc + 1)
  let w := s.readWord (s.pc + 1)
  match m with
  | .immediate => .immediate b
  | .zeroPage => .zeroPage b
  | .zeroPageX => .zeroPageX b
  | .zeroPageY => .zeroPageY b
  | .absolute => .absolute w
  | .absoluteX => .absoluteX w
  | .absoluteY => .absoluteY w
  | .relative => .relative b
  | .indirect => .indirect w
  | .indexedIndirect => .indexedIndirect b
  | .indirectIndexed => .indirectIndexed b

/-- An exact address sum as an address, or AddressOverflow with the unmasked sum (60_exceptions.md R403). -/
def checkAddress (site : Site) (ea : Int) : Except Fault Word :=
  if 0 ≤ ea ∧ ea ≤ 0xFFFF then .ok (BitVec.ofInt 16 ea) else .error (.addressOverflow site ea)

/-- The effective address of an operand form, or the resolver's fault. It reads memory, PC, X and Y and writes nothing
(40_addressing_modes.md R131). `PC` of the formulas is `PC_op + 1` (R132). -/
def resolve (site : Site) (o : Operand) (s : State) : Except Fault Word :=
  match o with
  -- R133
  | .immediate _ => .ok (s.pc + 1)
  -- R134
  | .zeroPage b => .ok b.toWord
  -- R135: the sum wraps inside the zero page
  | .zeroPageX b => .ok (b + s.x).toWord
  -- R136
  | .zeroPageY b => .ok (b + s.y).toWord
  -- R137
  | .absolute w => .ok w
  -- R138: the index is added to the operand word, unmasked (90_conflicts.md C2)
  | .absoluteX w => checkAddress site ((w.toNat : Int) + s.x.toNat)
  -- R139
  | .absoluteY w => checkAddress site ((w.toNat : Int) + s.y.toNat)
  -- R141: signed, from the operand's address; bound to no opcode
  | .relative b => checkAddress site ((s.pc.toNat : Int) + 1 + b.toInt)
  -- R140: the 16-bit contract, no page wrap (90_conflicts.md C3); bound to no opcode
  | .indirect w =>
    if w = 0xFFFF then .error (.addressOverflow site ((w.toNat : Int) + 1)) else .ok (s.readWord w)
  -- R142: X is added before the dereference (90_conflicts.md C7)
  | .indexedIndirect b =>
    if b.toNat + s.x.toNat > 0xFE then .error (.wrapUnsettled site ((b.toNat : Int) + s.x.toNat))
    else .ok (s.readWord (b.toWord + s.x.toWord))
  -- R143: the zp test stands before the sum's
  | .indirectIndexed b =>
    if b = 0xFF then .error (.wrapUnsettled site ((b.toNat : Int) + 1))
    else checkAddress site (((s.readWord b.toWord).toNat : Int) + s.y.toNat)

/-- The data byte an instruction reads: the byte at EA, and with immediate mode the operand byte itself, "the value, not a
pointer" (40_addressing_modes.md R133, R145). The fetched operand byte is the byte at EA = PC_op + 1 (log entry 6). -/
def operandByte (site : Site) (o : Operand) (s : State) : Except Fault Byte :=
  match o with
  | .immediate b => .ok b
  | _ => do
    let ea ← resolve site o s
    return s.read ea

/-- The operand width of an operand form, or 0 where there is none (R130, R144). -/
def operandWidth : Option Operand → Nat
  | none => 0
  | some o => o.width

/-- The target of a shift or rotate: A, or the byte at an effective address (43_shift_rotate.md R224). -/
inductive Target where
  | accumulator
  | memory (ea : Word)
  deriving DecidableEq, Repr

/-- The target of an operand form: the accumulator-only form has no mode (43_shift_rotate.md R224). -/
def resolveTarget (site : Site) (o : Option Operand) (s : State) : Except Fault Target :=
  match o with
  | none => .ok .accumulator
  | some o => do
    let ea ← resolve site o s
    return .memory ea

/-- `read t` of 43_shift_rotate.md. -/
def State.readTarget (s : State) : Target → Byte
  | .accumulator => s.a
  | .memory ea => s.read ea

/-- `write t` of 43_shift_rotate.md. -/
def State.writeTarget (s : State) (v : Byte) : Target → State
  | .accumulator => s.setA v
  | .memory ea => s.write ea v

end Sys2Proof.Machine
end

