-- ==== Sys2Proof/Machine/Flags.lean ====
section
/-! DEFINITION. The status register P. The core computes no flag: P is 8 bits of storage with no fields, read whole by PHP
and written whole by PLP (10_state.md R39, R40, 90_conflicts.md C4). So there is no flag computation to define, and these
two are all there is. -/

namespace Sys2Proof.Machine

/-- The byte PHP pushes: all 8 bits of P, unchanged (47_stack.md R305, 92_eei_decisions.md D14). -/
def statusPayload (s : State) : Byte := s.p

/-- PLP's write of P: all 8 bits, every value accepted (47_stack.md R307). -/
def restoreStatus (v : Byte) (s : State) : State := s.setP v

end Sys2Proof.Machine
end

