-- ==== Sys2Proof/Machine/Arith.lean ====
section
/-! DEFINITION. ADC, AND, EOR, ORA, SBC (42_arith_logic.md R200 to R208): A combined with the data byte, into A. No
carry, no borrow, no decimal mode, no flag (R207, R208, 10_state.md R40). -/

namespace Sys2Proof.Machine

/-- `A <- fit8(A + m)` (R200). -/
def performAdc (opcode : Byte) (o : Operand) (s : State) : Result :=
  let site := siteOf opcode s
  complete site o.width s do
    let m ← operandByte site o s
    let r ← fit8 site ((s.a.toNat : Int) + m.toNat)
    return s.setA r

def execAdcImm (b : Byte) (s : State) : Result := performAdc 0x69 (.immediate b) s
def execAdcZp (b : Byte) (s : State) : Result := performAdc 0x65 (.zeroPage b) s
def execAdcZpX (b : Byte) (s : State) : Result := performAdc 0x75 (.zeroPageX b) s
def execAdcAbs (w : Word) (s : State) : Result := performAdc 0x6D (.absolute w) s
def execAdcAbsX (w : Word) (s : State) : Result := performAdc 0x7D (.absoluteX w) s
def execAdcAbsY (w : Word) (s : State) : Result := performAdc 0x79 (.absoluteY w) s
def execAdcIndX (b : Byte) (s : State) : Result := performAdc 0x61 (.indexedIndirect b) s
def execAdcIndY (b : Byte) (s : State) : Result := performAdc 0x71 (.indirectIndexed b) s

/-- `A <- A & m` (R201). -/
def performAnd (opcode : Byte) (o : Operand) (s : State) : Result :=
  let site := siteOf opcode s
  complete site o.width s do
    let m ← operandByte site o s
    return s.setA (s.a &&& m)

def execAndImm (b : Byte) (s : State) : Result := performAnd 0x29 (.immediate b) s
def execAndZp (b : Byte) (s : State) : Result := performAnd 0x25 (.zeroPage b) s
def execAndZpX (b : Byte) (s : State) : Result := performAnd 0x35 (.zeroPageX b) s
def execAndAbs (w : Word) (s : State) : Result := performAnd 0x2D (.absolute w) s
def execAndAbsX (w : Word) (s : State) : Result := performAnd 0x3D (.absoluteX w) s
def execAndAbsY (w : Word) (s : State) : Result := performAnd 0x39 (.absoluteY w) s
def execAndIndX (b : Byte) (s : State) : Result := performAnd 0x21 (.indexedIndirect b) s
def execAndIndY (b : Byte) (s : State) : Result := performAnd 0x31 (.indirectIndexed b) s

/-- `A <- A ^ m` (R202). -/
def performEor (opcode : Byte) (o : Operand) (s : State) : Result :=
  let site := siteOf opcode s
  complete site o.width s do
    let m ← operandByte site o s
    return s.setA (s.a ^^^ m)

def execEorImm (b : Byte) (s : State) : Result := performEor 0x49 (.immediate b) s
def execEorZp (b : Byte) (s : State) : Result := performEor 0x45 (.zeroPage b) s
def execEorZpX (b : Byte) (s : State) : Result := performEor 0x55 (.zeroPageX b) s
def execEorAbs (w : Word) (s : State) : Result := performEor 0x4D (.absolute w) s
def execEorAbsX (w : Word) (s : State) : Result := performEor 0x5D (.absoluteX w) s
def execEorAbsY (w : Word) (s : State) : Result := performEor 0x59 (.absoluteY w) s
def execEorIndX (b : Byte) (s : State) : Result := performEor 0x41 (.indexedIndirect b) s
def execEorIndY (b : Byte) (s : State) : Result := performEor 0x51 (.indirectIndexed b) s

/-- `A <- A | m` (R203). -/
def performOra (opcode : Byte) (o : Operand) (s : State) : Result :=
  let site := siteOf opcode s
  complete site o.width s do
    let m ← operandByte site o s
    return s.setA (s.a ||| m)

def execOraImm (b : Byte) (s : State) : Result := performOra 0x09 (.immediate b) s
def execOraZp (b : Byte) (s : State) : Result := performOra 0x05 (.zeroPage b) s
def execOraZpX (b : Byte) (s : State) : Result := performOra 0x15 (.zeroPageX b) s
def execOraAbs (w : Word) (s : State) : Result := performOra 0x0D (.absolute w) s
def execOraAbsX (w : Word) (s : State) : Result := performOra 0x1D (.absoluteX w) s
def execOraAbsY (w : Word) (s : State) : Result := performOra 0x19 (.absoluteY w) s
def execOraIndX (b : Byte) (s : State) : Result := performOra 0x01 (.indexedIndirect b) s
def execOraIndY (b : Byte) (s : State) : Result := performOra 0x11 (.indirectIndexed b) s

/-- `A <- fit8(A - m)` (R204). -/
def performSbc (opcode : Byte) (o : Operand) (s : State) : Result :=
  let site := siteOf opcode s
  complete site o.width s do
    let m ← operandByte site o s
    let r ← fit8 site ((s.a.toNat : Int) - m.toNat)
    return s.setA r

def execSbcImm (b : Byte) (s : State) : Result := performSbc 0xE9 (.immediate b) s
def execSbcZp (b : Byte) (s : State) : Result := performSbc 0xE5 (.zeroPage b) s
def execSbcZpX (b : Byte) (s : State) : Result := performSbc 0xF5 (.zeroPageX b) s
def execSbcAbs (w : Word) (s : State) : Result := performSbc 0xED (.absolute w) s
def execSbcAbsX (w : Word) (s : State) : Result := performSbc 0xFD (.absoluteX w) s
def execSbcAbsY (w : Word) (s : State) : Result := performSbc 0xF9 (.absoluteY w) s
def execSbcIndX (b : Byte) (s : State) : Result := performSbc 0xE1 (.indexedIndirect b) s
def execSbcIndY (b : Byte) (s : State) : Result := performSbc 0xF1 (.indirectIndexed b) s

end Sys2Proof.Machine
end

