-- ==== Sys2Proof/Machine/IncDec.lean ====
section
/-! DEFINITION. INC, INX, INY, DEC, DEX, DEY (46_inc_dec.md R280 to R288). Only DEX and DEY wrap (R286). -/

namespace Sys2Proof.Machine

/-- `MemWrite(EA, 1, fit8(m + 1))` (R280). -/
def performInc (opcode : Byte) (o : Operand) (s : State) : Result :=
  let site := siteOf opcode s
  complete site o.width s do
    let ea ← resolve site o s
    let r ← fit8 site (((s.read ea).toNat : Int) + 1)
    return s.write ea r

def execIncZp (b : Byte) (s : State) : Result := performInc 0xE6 (.zeroPage b) s
def execIncZpX (b : Byte) (s : State) : Result := performInc 0xF6 (.zeroPageX b) s
def execIncAbs (w : Word) (s : State) : Result := performInc 0xEE (.absolute w) s
def execIncAbsX (w : Word) (s : State) : Result := performInc 0xFE (.absoluteX w) s

/-- `X <- fit8(X + 1)` (R281). -/
def performInx (opcode : Byte) (s : State) : Result :=
  let site := siteOf opcode s
  complete site 0 s do
    let r ← fit8 site ((s.x.toNat : Int) + 1)
    return s.setX r

def execInx (s : State) : Result := performInx 0xE8 s

/-- `Y <- fit8(Y + 1)` (R282). -/
def performIny (opcode : Byte) (s : State) : Result :=
  let site := siteOf opcode s
  complete site 0 s do
    let r ← fit8 site ((s.y.toNat : Int) + 1)
    return s.setY r

def execIny (s : State) : Result := performIny 0xC8 s

/-- `MemWrite(EA, 1, fit8(m - 1))` (R283). -/
def performDec (opcode : Byte) (o : Operand) (s : State) : Result :=
  let site := siteOf opcode s
  complete site o.width s do
    let ea ← resolve site o s
    let r ← fit8 site (((s.read ea).toNat : Int) - 1)
    return s.write ea r

def execDecZp (b : Byte) (s : State) : Result := performDec 0xC6 (.zeroPage b) s
def execDecZpX (b : Byte) (s : State) : Result := performDec 0xD6 (.zeroPageX b) s
def execDecAbs (w : Word) (s : State) : Result := performDec 0xCE (.absolute w) s
def execDecAbsX (w : Word) (s : State) : Result := performDec 0xDE (.absoluteX w) s

/-- `X <- (X - 1) mod 0x100`: it wraps (R284). -/
def performDex (opcode : Byte) (s : State) : Result := complete (siteOf opcode s) 0 s (.ok (s.setX (s.x - 1)))

def execDex (s : State) : Result := performDex 0xCA s

/-- `Y <- (Y - 1) mod 0x100`: it wraps (R285). -/
def performDey (opcode : Byte) (s : State) : Result := complete (siteOf opcode s) 0 s (.ok (s.setY (s.y - 1)))

def execDey (s : State) : Result := performDey 0x88 s

end Sys2Proof.Machine
end

