-- ==== Sys2Proof/Machine/LoadStore.lean ====
section
/-! DEFINITION. LDA, LDX, LDY, STA, STX, STY (44_load_store.md R240 to R248): one byte between a register and memory. -/

namespace Sys2Proof.Machine

/-- Write a register's byte at EA (R248). -/
def storeByte (v : Byte) (opcode : Byte) (o : Operand) (s : State) : Result :=
  let site := siteOf opcode s
  complete site o.width s do
    let ea ← resolve site o s
    return s.write ea v

/-- `A <- MemRead(EA, 1)` (R240). -/
def performLda (opcode : Byte) (o : Operand) (s : State) : Result :=
  let site := siteOf opcode s
  complete site o.width s do
    let m ← operandByte site o s
    return s.setA m

def execLdaImm (b : Byte) (s : State) : Result := performLda 0xA9 (.immediate b) s
def execLdaZp (b : Byte) (s : State) : Result := performLda 0xA5 (.zeroPage b) s
def execLdaZpX (b : Byte) (s : State) : Result := performLda 0xB5 (.zeroPageX b) s
def execLdaAbs (w : Word) (s : State) : Result := performLda 0xAD (.absolute w) s
def execLdaAbsX (w : Word) (s : State) : Result := performLda 0xBD (.absoluteX w) s
def execLdaAbsY (w : Word) (s : State) : Result := performLda 0xB9 (.absoluteY w) s
def execLdaIndX (b : Byte) (s : State) : Result := performLda 0xA1 (.indexedIndirect b) s
def execLdaIndY (b : Byte) (s : State) : Result := performLda 0xB1 (.indirectIndexed b) s

/-- `X <- MemRead(EA, 1)` (R241). -/
def performLdx (opcode : Byte) (o : Operand) (s : State) : Result :=
  let site := siteOf opcode s
  complete site o.width s do
    let m ← operandByte site o s
    return s.setX m

def execLdxImm (b : Byte) (s : State) : Result := performLdx 0xA2 (.immediate b) s
def execLdxZp (b : Byte) (s : State) : Result := performLdx 0xA6 (.zeroPage b) s
def execLdxZpY (b : Byte) (s : State) : Result := performLdx 0xB6 (.zeroPageY b) s
def execLdxAbs (w : Word) (s : State) : Result := performLdx 0xAE (.absolute w) s
def execLdxAbsY (w : Word) (s : State) : Result := performLdx 0xBE (.absoluteY w) s

/-- `Y <- MemRead(EA, 1)` (R242). -/
def performLdy (opcode : Byte) (o : Operand) (s : State) : Result :=
  let site := siteOf opcode s
  complete site o.width s do
    let m ← operandByte site o s
    return s.setY m

def execLdyImm (b : Byte) (s : State) : Result := performLdy 0xA0 (.immediate b) s
def execLdyZp (b : Byte) (s : State) : Result := performLdy 0xA4 (.zeroPage b) s
def execLdyZpX (b : Byte) (s : State) : Result := performLdy 0xB4 (.zeroPageX b) s
def execLdyAbs (w : Word) (s : State) : Result := performLdy 0xAC (.absolute w) s
def execLdyAbsX (w : Word) (s : State) : Result := performLdy 0xBC (.absoluteX w) s

/-- `MemWrite(EA, 1, A)` (R243). -/
def performSta (opcode : Byte) (o : Operand) (s : State) : Result :=
  storeByte s.a opcode o s

def execStaZp (b : Byte) (s : State) : Result := performSta 0x85 (.zeroPage b) s
def execStaZpX (b : Byte) (s : State) : Result := performSta 0x95 (.zeroPageX b) s
def execStaAbs (w : Word) (s : State) : Result := performSta 0x8D (.absolute w) s
def execStaAbsX (w : Word) (s : State) : Result := performSta 0x9D (.absoluteX w) s
def execStaAbsY (w : Word) (s : State) : Result := performSta 0x99 (.absoluteY w) s
def execStaIndX (b : Byte) (s : State) : Result := performSta 0x81 (.indexedIndirect b) s
def execStaIndY (b : Byte) (s : State) : Result := performSta 0x91 (.indirectIndexed b) s

/-- `MemWrite(EA, 1, X)` (R244). -/
def performStx (opcode : Byte) (o : Operand) (s : State) : Result :=
  storeByte s.x opcode o s

def execStxZp (b : Byte) (s : State) : Result := performStx 0x86 (.zeroPage b) s
def execStxZpY (b : Byte) (s : State) : Result := performStx 0x96 (.zeroPageY b) s
def execStxAbs (w : Word) (s : State) : Result := performStx 0x8E (.absolute w) s

/-- `MemWrite(EA, 1, Y)` (R245). -/
def performSty (opcode : Byte) (o : Operand) (s : State) : Result :=
  storeByte s.y opcode o s

def execStyZp (b : Byte) (s : State) : Result := performSty 0x84 (.zeroPage b) s
def execStyZpX (b : Byte) (s : State) : Result := performSty 0x94 (.zeroPageX b) s
def execStyAbs (w : Word) (s : State) : Result := performSty 0x8C (.absolute w) s

end Sys2Proof.Machine
end

