-- ==== Sys2Proof/Machine/Shift.lean ====
section
/-! DEFINITION. ASL, LSR, ROL, ROR (43_shift_rotate.md R220 to R226): one bit, in place, on A or on the byte at EA. -/

namespace Sys2Proof.Machine

/-- `fit8(v << 1)`: twice the byte, exact (R220). -/
def shiftLeft (site : Site) (v : Byte) : Except Fault Byte := fit8 site (2 * (v.toNat : Int))

/-- `v >> 1` (R221). -/
def shiftRight (v : Byte) : Byte := v >>> 1

/-- `((v << 1) & 0xFF) | (v >> 7)`: bit 7 goes into bit 0 (R222). -/
def rotateLeft (v : Byte) : Byte := (v <<< 1) ||| (v >>> 7)

/-- `(v >> 1) | ((v & 0x01) << 7)`: bit 0 goes into bit 7 (R223). -/
def rotateRight (v : Byte) : Byte := (v >>> 1) ||| ((v &&& 0x01) <<< 7)

/-- Read the target once, write the result back to it once (R224). -/
def shift (f : Site → Byte → Except Fault Byte) (opcode : Byte) (o : Option Operand) (s : State) : Result :=
  let site := siteOf opcode s
  complete site (operandWidth o) s do
    let t ← resolveTarget site o s
    let r ← f site (s.readTarget t)
    return s.writeTarget r t

/-- Shift left, checked (R220). -/
def performAsl (opcode : Byte) (o : Option Operand) (s : State) : Result :=
  shift shiftLeft opcode o s

def execAslAcc (s : State) : Result := performAsl 0x0A none s
def execAslZp (b : Byte) (s : State) : Result := performAsl 0x06 (some (.zeroPage b)) s
def execAslZpX (b : Byte) (s : State) : Result := performAsl 0x16 (some (.zeroPageX b)) s
def execAslAbs (w : Word) (s : State) : Result := performAsl 0x0E (some (.absolute w)) s
def execAslAbsX (w : Word) (s : State) : Result := performAsl 0x1E (some (.absoluteX w)) s

/-- Shift right, 0 into bit 7 (R221). -/
def performLsr (opcode : Byte) (o : Option Operand) (s : State) : Result :=
  shift (fun _ v => .ok (shiftRight v)) opcode o s

def execLsrAcc (s : State) : Result := performLsr 0x4A none s
def execLsrZp (b : Byte) (s : State) : Result := performLsr 0x46 (some (.zeroPage b)) s
def execLsrZpX (b : Byte) (s : State) : Result := performLsr 0x56 (some (.zeroPageX b)) s
def execLsrAbs (w : Word) (s : State) : Result := performLsr 0x4E (some (.absolute w)) s
def execLsrAbsX (w : Word) (s : State) : Result := performLsr 0x5E (some (.absoluteX w)) s

/-- Rotate left within 8 bits (R222). -/
def performRol (opcode : Byte) (o : Option Operand) (s : State) : Result :=
  shift (fun _ v => .ok (rotateLeft v)) opcode o s

def execRolAcc (s : State) : Result := performRol 0x2A none s
def execRolZp (b : Byte) (s : State) : Result := performRol 0x26 (some (.zeroPage b)) s
def execRolZpX (b : Byte) (s : State) : Result := performRol 0x36 (some (.zeroPageX b)) s
def execRolAbs (w : Word) (s : State) : Result := performRol 0x2E (some (.absolute w)) s
def execRolAbsX (w : Word) (s : State) : Result := performRol 0x3E (some (.absoluteX w)) s

/-- Rotate right within 8 bits (R223). -/
def performRor (opcode : Byte) (o : Option Operand) (s : State) : Result :=
  shift (fun _ v => .ok (rotateRight v)) opcode o s

def execRorAcc (s : State) : Result := performRor 0x6A none s
def execRorZp (b : Byte) (s : State) : Result := performRor 0x66 (some (.zeroPage b)) s
def execRorZpX (b : Byte) (s : State) : Result := performRor 0x76 (some (.zeroPageX b)) s
def execRorAbs (w : Word) (s : State) : Result := performRor 0x6E (some (.absolute w)) s
def execRorAbsX (w : Word) (s : State) : Result := performRor 0x7E (some (.absoluteX w)) s

end Sys2Proof.Machine
end

