-- ==== Sys2Proof/Machine/Stack.lean ====
section
/-! DEFINITION. PHA, PHP, PLA, PLP (47_stack.md R304 to R307) over the stack unit (R300, R301). -/

namespace Sys2Proof.Machine

/-- `push(A)` (R304). -/
def performPha (opcode : Byte) (s : State) : Result :=
  let site := siteOf opcode s
  complete site 0 s (push site s.a s)

def execPha (s : State) : Result := performPha 0x48 s

/-- `push(P)` (R305). -/
def performPhp (opcode : Byte) (s : State) : Result :=
  let site := siteOf opcode s
  complete site 0 s (push site (statusPayload s) s)

def execPhp (s : State) : Result := performPhp 0x08 s

/-- `A <- pop()` (R306). -/
def performPla (opcode : Byte) (s : State) : Result :=
  let site := siteOf opcode s
  complete site 0 s do
    let (v, t) ← pop site s
    return t.setA v

def execPla (s : State) : Result := performPla 0x68 s

/-- `P <- pop()` (R307). -/
def performPlp (opcode : Byte) (s : State) : Result :=
  let site := siteOf opcode s
  complete site 0 s do
    let (v, t) ← pop site s
    return restoreStatus v t

def execPlp (s : State) : Result := performPlp 0x28 s

end Sys2Proof.Machine
end

