-- ==== Sys2Proof/Machine/Transfer.lean ====
section
/-! DEFINITION. TAX, TAY, TSX, TXA, TXS, TYA (45_transfer.md R260 to R268): one register copied to another, no memory
access. -/

namespace Sys2Proof.Machine

/-- `X <- A` (R260). -/
def performTax (opcode : Byte) (s : State) : Result := complete (siteOf opcode s) 0 s (.ok (s.setX s.a))

def execTax (s : State) : Result := performTax 0xAA s

/-- `Y <- A` (R261). -/
def performTay (opcode : Byte) (s : State) : Result := complete (siteOf opcode s) 0 s (.ok (s.setY s.a))

def execTay (s : State) : Result := performTay 0xA8 s

/-- `X <- SP` (R262). -/
def performTsx (opcode : Byte) (s : State) : Result := complete (siteOf opcode s) 0 s (.ok (s.setX s.sp))

def execTsx (s : State) : Result := performTsx 0xBA s

/-- `A <- X` (R263). -/
def performTxa (opcode : Byte) (s : State) : Result := complete (siteOf opcode s) 0 s (.ok (s.setA s.x))

def execTxa (s : State) : Result := performTxa 0x8A s

/-- `SP <- X` (R264). -/
def performTxs (opcode : Byte) (s : State) : Result := complete (siteOf opcode s) 0 s (.ok (s.setSp s.x))

def execTxs (s : State) : Result := performTxs 0x9A s

/-- `A <- Y` (R265). -/
def performTya (opcode : Byte) (s : State) : Result := complete (siteOf opcode s) 0 s (.ok (s.setA s.y))

def execTya (s : State) : Result := performTya 0x98 s

end Sys2Proof.Machine
end

