-- ==== Sys2Proof/Machine/Fetch.lean ====
section
/-! DEFINITION. Fetching an instruction at PC: the opcode byte, then the operand bytes (41_execution_cycle.md R162 to R165). -/

namespace Sys2Proof.Machine

/-- The bytes that may belong to the instruction after its opcode byte: two, as far as memory reaches (30_encoding.md R91). -/
def operandBytesAt (s : State) : List Byte := s.mem.bytes (s.pc.toNat + 1) 2

/-- Fetch and decode the instruction at PC. An empty slot is IllegalOpcode (R163). A populated slot whose operand bytes
would lie past 0xFFFF is PCOverflow (R164): the case whose bytes just fit is `complete`'s. `noBytes` cannot arise, since an
opcode byte is at hand, and stands with the empty slot. -/
def fetch (s : State) : Except Fault Instr :=
  let opcode := s.read s.pc
  match decodeFrom opcode (operandBytesAt s) with
  | .ok (i, _) => .ok i
  | .error (.truncated _) => .error (.pcOverflow (siteOf opcode s))
  | .error (.emptySlot _) | .error .noBytes => .error (.illegalOpcode (siteOf opcode s))

/-- The memory with an instruction's bytes where `fetch` reads them. -/
def placeInstruction (bytes : List Byte) (s : State) : State := s.setMem (s.mem.store s.pc.toNat bytes)

end Sys2Proof.Machine
end

