-- ==== Sys2Proof/Machine/Step.lean ====
section
/-! DEFINITION. One step: `tick` (41_execution_cycle.md R162 to R168). -/

namespace Sys2Proof.Machine

/-- `tick()`: fetch the instruction at PC and run it, or raise the fetch's fault (R168). -/
def step (s : State) : Host.Outcome State Fault Refusal :=
  match fetch s with
  | .error f => raise f
  | .ok i => exec i s

/-- The state with an instruction of the opcode table stored where `step` fetches its next instruction, at PC. It stands for
the host's `load` (70_reset_and_hazards.md R503, log entry 5). -/
def State.withFetchWord (s : State) (nbits w : Nat) : State := placeInstruction (tableWordBytes nbits w) s

end Sys2Proof.Machine
end

