-- ==== Sys2Proof/Machine/Assembler.lean ====
section
/-! DEFINITION. The assembler of 30_encoding.md R110 to R119: text lines to a ROM. It is surrounding software, not hardware
(00_scope.md R6): it spells programs, and no step reads it. -/

namespace Sys2Proof.Assembler

/-- The 31 mnemonics (00_scope.md R2). -/
def mnemonics : List Op :=
  [.ADC, .AND, .EOR, .ORA, .SBC, .ASL, .LSR, .ROL, .ROR, .LDA, .LDX, .LDY, .STA, .STX, .STY, .TAX, .TAY, .TSX, .TXA, .TXS,
  .TYA, .INC, .INX, .INY, .DEC, .DEX, .DEY, .PHA, .PHP, .PLA, .PLP]

/-- The spelling of a mnemonic: three upper-case letters (R111). -/
def mnemonicText : Op → List Char
  | .ADC => ['A', 'D', 'C'] | .AND => ['A', 'N', 'D'] | .EOR => ['E', 'O', 'R'] | .ORA => ['O', 'R', 'A']
  | .SBC => ['S', 'B', 'C'] | .ASL => ['A', 'S', 'L'] | .LSR => ['L', 'S', 'R'] | .ROL => ['R', 'O', 'L']
  | .ROR => ['R', 'O', 'R'] | .LDA => ['L', 'D', 'A'] | .LDX => ['L', 'D', 'X'] | .LDY => ['L', 'D', 'Y']
  | .STA => ['S', 'T', 'A'] | .STX => ['S', 'T', 'X'] | .STY => ['S', 'T', 'Y'] | .TAX => ['T', 'A', 'X']
  | .TAY => ['T', 'A', 'Y'] | .TSX => ['T', 'S', 'X'] | .TXA => ['T', 'X', 'A'] | .TXS => ['T', 'X', 'S']
  | .TYA => ['T', 'Y', 'A'] | .INC => ['I', 'N', 'C'] | .INX => ['I', 'N', 'X'] | .INY => ['I', 'N', 'Y']
  | .DEC => ['D', 'E', 'C'] | .DEX => ['D', 'E', 'X'] | .DEY => ['D', 'E', 'Y'] | .PHA => ['P', 'H', 'A']
  | .PHP => ['P', 'H', 'P'] | .PLA => ['P', 'L', 'A'] | .PLP => ['P', 'L', 'P']

/-- The mnemonic that a word spells. -/
def mnemonicOf (word : List Char) : Option Op := mnemonics.find? fun op => mnemonicText op == word

/-- The operand text of a mode: what stands before its hex field, how many hex digits the field has, what stands after it
(R113). The two modes no mnemonic has are not spelled. -/
def modeText : Mode → Option (List Char × Nat × List Char)
  | .immediate => some (['#', '$'], 2, [])
  | .zeroPage => some (['$'], 2, [])
  | .zeroPageX => some (['$'], 2, [',', 'X'])
  | .zeroPageY => some (['$'], 2, [',', 'Y'])
  | .absolute => some (['$'], 4, [])
  | .absoluteX => some (['$'], 4, [',', 'X'])
  | .absoluteY => some (['$'], 4, [',', 'Y'])
  | .indexedIndirect => some (['(', '$'], 2, [',', 'X', ')'])
  | .indirectIndexed => some (['(', '$'], 2, [')', ',', 'Y'])
  | .relative | .indirect => none

/-- The hex digits as runs of characters that follow one another: the first, how many there are, the first one's value. Digits
may be in either case (R111). -/
def hexRuns : List (Char × Nat × Nat) := [('0', 10, 0), ('A', 6, 10), ('a', 6, 10)]

/-- The value of a hex digit: its run's first value and its place in the run. -/
def hexDigit (c : Char) : Option Nat :=
  hexRuns.findSome? fun (first, count, value) =>
    let place := c.toNat - first.toNat
    if first ≤ c ∧ place < count then some (value + place) else none

/-- The text after `lead`, where it begins with it. -/
def afterText : List Char → List Char → Option (List Char)
  | [], text => some text
  | c :: lead, d :: text => if c = d then afterText lead text else none
  | _ :: _, [] => none

/-- Exactly `n` hex digits after the value `v` read so far, and the text after them. -/
def hexField : Nat → Nat → List Char → Option (Nat × List Char)
  | 0, v, text => some (v, text)
  | n + 1, v, c :: text =>
    match hexDigit c with
    | some d => hexField n (16 * v + d) text
    | none => none
  | _ + 1, _, [] => none

/-- The operand of a mode with a field value. -/
def operandOfValue (m : Mode) (v : Nat) : Operand :=
  let b := BitVec.ofNat 8 v
  let w := BitVec.ofNat 16 v
  match m with
  | .immediate => .immediate b
  | .zeroPage => .zeroPage b
  | .zeroPageX => .zeroPageX b
  | .zeroPageY => .zeroPageY b
  | .absolute => .absolute w
  | .absoluteX => .absoluteX w
  | .absoluteY => .absoluteY w
  | .relative => .relative b
  | .indirect => .indirect w
  | .indexedIndirect => .indexedIndirect b
  | .indirectIndexed => .indirectIndexed b

/-- A mode's textual matcher: the operand it reads from the whole operand text (R113). The implied and accumulator-only
forms take an empty text. -/
def matchMode (m : Option Mode) (text : List Char) : Option (Option Operand) :=
  match m with
  | none => if text = [] then some none else none
  | some m => do
    let (lead, digits, tail) ← modeText m
    let field ← afterText lead text
    let (v, rest) ← hexField digits 0 field
    if rest = tail then some (some (operandOfValue m v)) else none

/-- The first of the mnemonic's modes whose matcher accepts the operand text (R114). -/
def matchOperand (op : Op) (text : List Char) : Option (Option Operand) :=
  op.modes.findSome? fun m => matchMode m text

/-- The two encoding errors (R112, R115). -/
inductive ErrorKind where
  /-- A mnemonic that is not one of the 31. -/
  | unknownMnemonic
  /-- No mode of the mnemonic accepts the operand text, or the line does not have the form of R110. -/
  | noMatchingMode
  deriving DecidableEq, Repr

/-- An encoding error, naming the offending line by its number (from 1) and its text (R117). -/
structure EncodingError where
  kind : ErrorKind
  line : Nat
  text : List Char
  deriving DecidableEq, Repr

/-- White space inside a line. -/
def isBlank (c : Char) : Bool := c == ' ' || c == '\t' || c == '\r'

/-- The text without white space at its front. -/
def trimFront (text : List Char) : List Char := text.dropWhile isBlank

/-- The text without white space at either side (R111). -/
def trim (text : List Char) : List Char := (trimFront (trimFront text).reverse).reverse

/-- A mnemonic word: three upper-case letters (R111). -/
def isMnemonicWord (word : List Char) : Bool := word.length == 3 && word.all fun c => decide ('A' ≤ c ∧ c ≤ 'Z')

/-- The operand token's characters (R110). -/
def isOperandChar (c : Char) : Bool :=
  (hexDigit c).isSome || ['#', '$', '(', ')', ',', 'X', 'Y'].contains c

/-- One line to its bytes: a blank line gives none; a line that does not have the form of R110 and R111 is
NoMatchingMode; then the mnemonic is looked up, then the operand's mode (R111 to R116; the order is log entry 12). -/
def assembleLine (line : List Char) : Except ErrorKind (List Byte) :=
  let text := trim line
  if text = [] then .ok []
  else
    let word := text.takeWhile fun c => !isBlank c
    let operand := trimFront (text.dropWhile fun c => !isBlank c)
    if isMnemonicWord word && operand.all isOperandChar then
      match mnemonicOf word with
      | none => .error .unknownMnemonic
      | some op =>
        match matchOperand op operand with
        | none => .error .noMatchingMode
        | some o =>
          match Form.toInstr? ⟨op, o⟩ with
          | none => .error .noMatchingMode
          | some i => .ok (encode i)
    else .error .noMatchingMode

/-- The lines of a text, one newline between two. -/
def splitLines : List Char → List (List Char)
  | [] => [[]]
  | c :: text =>
    if c = '\n' then [] :: splitLines text
    else
      match splitLines text with
      | [] => [[c]]
      | line :: lines => (c :: line) :: lines

/-- Assemble lines from line number `n` on: all bytes in source order, or the first error (R116, R117). -/
def assembleLines : Nat → List (List Char) → Except EncodingError (List Byte)
  | _, [] => .ok []
  | n, line :: lines =>
    match assembleLine line with
    | .error kind => .error ⟨kind, n, line⟩
    | .ok bytes =>
      match assembleLines (n + 1) lines with
      | .error e => .error e
      | .ok rom => .ok (bytes ++ rom)

/-- Assemble a source text to a ROM (R116). -/
def assemble (source : String) : Except EncodingError (List Byte) := assembleLines 1 (splitLines source.toList)

/-! ## Spelling an instruction -/

/-- A value below 16 as an upper-case hex digit. -/
def hexChar (n : Nat) : Char :=
  if n < 10 then Char.ofNat ('0'.toNat + n) else Char.ofNat ('A'.toNat + (n - 10))

/-- A byte as two hex digits. -/
def byteText (b : Byte) : List Char := [hexChar (b.toNat / 16), hexChar (b.toNat % 16)]

/-- A word as four hex digits. -/
def wordText (w : Word) : List Char := byteText ((w >>> 8).setWidth 8) ++ byteText (w.setWidth 8)

/-- The text of an operand form (R113). -/
def operandText : Operand → List Char
  | .immediate b => ['#', '$'] ++ byteText b
  | .zeroPage b => ['$'] ++ byteText b
  | .zeroPageX b => ['$'] ++ byteText b ++ [',', 'X']
  | .zeroPageY b => ['$'] ++ byteText b ++ [',', 'Y']
  | .absolute w => ['$'] ++ wordText w
  | .absoluteX w => ['$'] ++ wordText w ++ [',', 'X']
  | .absoluteY w => ['$'] ++ wordText w ++ [',', 'Y']
  | .indexedIndirect b => ['(', '$'] ++ byteText b ++ [',', 'X', ')']
  | .indirectIndexed b => ['(', '$'] ++ byteText b ++ [')', ',', 'Y']
  | .relative _ | .indirect _ => []

/-- An instruction as an assembler line: the mnemonic, and where there is an operand one space and its text. -/
def spell (i : Instr) : List Char :=
  match i.operand? with
  | none => mnemonicText i.op
  | some o => mnemonicText i.op ++ ' ' :: operandText o

end Sys2Proof.Assembler
end

