-- ==== Sys2Proof/Machine/Session.lean ====
section
/-! DEFINITION. What the host does with a session: load, presets, run, snapshot, boot (70_reset_and_hazards.md R503 to R507,
41_execution_cycle.md R170 to R175). None of it is an instruction. -/

namespace Sys2Proof.Machine

/-! ## Load -/

/-- Why a host operation is refused. Host-side errors never touch the CPU state (60_exceptions.md R413). -/
inductive SessionError where
  /-- `load` of more than 0xFE00 bytes (70_reset_and_hazards.md R504). -/
  | romTooLarge
  /-- A preset of a value outside the register's width, or outside 0 to 255 for memory (R506). -/
  | valueOutOfWidth
  /-- A preset of a cell past 0xFFFF: there is none (20_memory.md R60). -/
  | noSuchCell
  deriving DecidableEq, Repr

/-- `load(bytes)`: copy a ROM into memory from 0x0200 on. No register changes, PC included (R503). -/
def load (rom : List Byte) (s : State) : Except SessionError State :=
  if rom.length ≤ Config.maxRom then .ok (s.setMem (s.mem.store Config.loadAddress.toNat rom))
  else .error .romTooLarge

/-! ## Presets -/

/-- What the host may set between instructions (R506). -/
inductive PresetTarget where
  | a | x | y | pc | sp | p
  | cell (address : Nat)
  deriving DecidableEq, Repr

/-- The largest value a preset target holds. -/
def PresetTarget.limit : PresetTarget → Nat
  | .pc => 0xFFFF
  | .a | .x | .y | .sp | .p | .cell _ => 0xFF

/-- A host preset: any register to a value in its width, any memory byte to 0 to 255 (R506). -/
def preset (target : PresetTarget) (v : Nat) (s : State) : Except SessionError State :=
  if target.limit < v then .error .valueOutOfWidth
  else
    match target with
    | .a => .ok (s.setA (BitVec.ofNat 8 v))
    | .x => .ok (s.setX (BitVec.ofNat 8 v))
    | .y => .ok (s.setY (BitVec.ofNat 8 v))
    | .pc => .ok (s.setPc (BitVec.ofNat 16 v))
    | .sp => .ok (s.setSp (BitVec.ofNat 8 v))
    | .p => .ok (s.setP (BitVec.ofNat 8 v))
    | .cell address =>
      if address < Config.memorySize then .ok (s.setMem (s.mem.write address (BitVec.ofNat 8 v)))
      else .error .noSuchCell

/-- Presets in order, up to the first that is refused. -/
def presets : List (PresetTarget × Nat) → State → Except SessionError State
  | [], s => .ok s
  | (target, v) :: rest, s => do presets rest (← preset target v s)

/-! ## Run -/

/-- How a run ends (41_execution_cycle.md R172), with the state the run leaves. -/
inductive RunEnd where
  /-- The byte at PC is the halt opcode. -/
  | halted (s : State)
  /-- A tick returned a fault. The state is as before the faulting instruction. -/
  | faulted (s : State) (f : Fault)
  /-- A tick was refused for want of a meaning. No tick of this model is. -/
  | refused (s : State) (r : Refusal)
  /-- The ticks allowed are used up. No run of this core is cut here (R171). -/
  | outOfTicks (s : State)
  deriving DecidableEq, Repr

/-- `run` for at most `n` rounds: before each tick, stop where the byte at PC is the halt opcode (R170). -/
def runFor (haltOpcode : Byte) : Nat → State → RunEnd
  | 0, s => .outOfTicks s
  | n + 1, s =>
    if s.read s.pc = haltOpcode then .halted s
    else
      match step s with
      | .next t => runFor haltOpcode n t
      | .fault f => .faulted s f
      | .refused r => .refused s r

/-- `run(haltOpcode)`. A run from PC = p ends within 0x10000 - p ticks (R171), so it is given that many rounds. -/
def run (haltOpcode : Byte) (s : State) : RunEnd :=
  runFor haltOpcode (Config.memorySize - s.pc.toNat) s

/-! ## Snapshot and boot -/

/-- The snapshot (A, X, Y, PC, SP, P, M), which changes nothing (R175). -/
def snapshot (s : State) : Byte × Byte × Byte × Word × Byte × Byte × Memory :=
  (s.a, s.x, s.y, s.pc, s.sp, s.p, s.mem)

/-- A session as a host runs it (70_reset_and_hazards.md R507): a fresh state, presets, `load`, presets. -/
def boot (before : List (PresetTarget × Nat)) (rom : List Byte) (after : List (PresetTarget × Nat)) :
    Except SessionError State := do
  let s ← presets before State.reset
  let s ← load rom s
  presets after s

end Sys2Proof.Machine
end

