-- ==== Sys2Proof/Safety.lean ====
section
/-! DEFINITION. The terms claims are stated in: the 143 empty slots as 30_encoding.md R99 lists them, the faults of an
instruction as the tables of 40_addressing_modes.md R146 and 60_exceptions.md R400 give them, the PC after an instruction,
the invariant of every state. None of it is used by the machine. -/

namespace Sys2Proof.Machine

/-- The 143 empty slots, as R99 lists them. -/
def emptySlots : List Byte :=
  [0x00, 0x02, 0x03, 0x04, 0x07, 0x0B, 0x0C, 0x0F, 0x10, 0x12, 0x13, 0x14, 0x17, 0x18, 0x1A, 0x1B, 0x1C, 0x1F] ++
  [0x20, 0x22, 0x23, 0x24, 0x27, 0x2B, 0x2C, 0x2F, 0x30, 0x32, 0x33, 0x34, 0x37, 0x38, 0x3A, 0x3B, 0x3C, 0x3F] ++
  [0x40, 0x42, 0x43, 0x44, 0x47, 0x4B, 0x4C, 0x4F, 0x50, 0x52, 0x53, 0x54, 0x57, 0x58, 0x5A, 0x5B, 0x5C, 0x5F] ++
  [0x60, 0x62, 0x63, 0x64, 0x67, 0x6B, 0x6C, 0x6F, 0x70, 0x72, 0x73, 0x74, 0x77, 0x78, 0x7A, 0x7B, 0x7C, 0x7F] ++
  [0x80, 0x82, 0x83, 0x87, 0x89, 0x8B, 0x8F, 0x90, 0x92, 0x93, 0x97, 0x9B, 0x9C, 0x9E, 0x9F, 0xA3, 0xA7, 0xAB] ++
  [0xAF, 0xB0, 0xB2, 0xB3, 0xB7, 0xB8, 0xBB, 0xBF, 0xC0, 0xC1, 0xC2, 0xC3, 0xC4, 0xC5, 0xC7, 0xC9, 0xCB, 0xCC] ++
  [0xCD, 0xCF, 0xD0, 0xD1, 0xD2, 0xD3, 0xD4, 0xD5, 0xD7, 0xD8, 0xD9, 0xDA, 0xDB, 0xDC, 0xDD, 0xDF, 0xE0, 0xE2] ++
  [0xE3, 0xE4, 0xE7, 0xEA, 0xEB, 0xEC, 0xEF, 0xF0, 0xF2, 0xF3, 0xF4, 0xF7, 0xF8, 0xFA, 0xFB, 0xFC, 0xFF]

/-- `PC_op + 1 + w` (41_execution_cycle.md R166). -/
def pcAfter (i : Instr) (s : State) : Word := BitVec.ofNat 16 (s.pc.toNat + 1 + i.width)

/-- The site of a fault of instruction `i` at the state's PC (60_exceptions.md R408). -/
def faultSite (i : Instr) (s : State) : Site := ⟨s.pc, i.opcode⟩

/-- The fault conditions of the resolver, with the value each records (40_addressing_modes.md R146). -/
def resolverFault (site : Site) (o : Operand) (s : State) : Option Fault :=
  match o with
  | .immediate _ | .zeroPage _ | .zeroPageX _ | .zeroPageY _ | .absolute _ => none
  | .absoluteX w =>
    if 0xFFFF < w.toNat + s.x.toNat then some (.addressOverflow site (w.toNat + s.x.toNat : Nat)) else none
  | .absoluteY w =>
    if 0xFFFF < w.toNat + s.y.toNat then some (.addressOverflow site (w.toNat + s.y.toNat : Nat)) else none
  | .relative b =>
    if s.pc.toNat + 1 + b.toInt < 0 ∨ 0xFFFF < s.pc.toNat + 1 + b.toInt then
      some (.addressOverflow site (s.pc.toNat + 1 + b.toInt))
    else none
  | .indirect w => if w = 0xFFFF then some (.addressOverflow site 0x10000) else none
  | .indexedIndirect b =>
    if 0xFE < b.toNat + s.x.toNat then some (.wrapUnsettled site (b.toNat + s.x.toNat : Nat)) else none
  | .indirectIndexed b =>
    if b = 0xFF then some (.wrapUnsettled site 0x100)
    else if 0xFFFF < (s.readWord b.toWord).toNat + s.y.toNat then
      some (.addressOverflow site ((s.readWord b.toWord).toNat + s.y.toNat : Nat))
    else none

/-- The first fault of the cycle before the semantic operation: PCOverflow, then the resolver's (60_exceptions.md R409, points
2 and 3). `none`: the cycle's checks pass. -/
def cycleFault (i : Instr) (s : State) : Option Fault :=
  if 0xFFFF < s.pc.toNat + 1 + i.width then some (.pcOverflow (faultSite i s))
  else
    match i.operand? with
    | none => none
    | some o => resolverFault (faultSite i s) o s

/-- The effective address of an instruction that has a mode, where it resolves. -/
def effectiveAddress? (i : Instr) (s : State) : Option Word :=
  match i.operand? with
  | none => none
  | some o => (resolve (faultSite i s) o s).toOption

/-- The data byte of an instruction that reads one through its mode (40_addressing_modes.md R145): the operand byte with
immediate mode, the byte at EA with every other. -/
def dataByte? (i : Instr) (s : State) : Option Byte :=
  match i.operand? with
  | some (.immediate b) => some b
  | _ => (effectiveAddress? i s).map s.read

/-- The byte a shift or rotate works on: A without a mode, the byte at EA with one (43_shift_rotate.md R224). -/
def targetByte? (i : Instr) (s : State) : Option Byte :=
  match i.operand? with
  | none => some s.a
  | some _ => dataByte? i s

/-- WidthOverflow at an exact result outside 0 to 255 (60_exceptions.md R407). -/
def widthFault (site : Site) (v : Int) : Option Fault :=
  if v < 0 ∨ 0xFF < v then some (.widthOverflow site v) else none

/-- The fault of the semantic operation: each has at most one (60_exceptions.md R405, R406, R407, R409 point 4). -/
def semanticFault (i : Instr) (s : State) : Option Fault :=
  match i.op with
  | .ADC => (dataByte? i s).bind fun m => widthFault (faultSite i s) (s.a.toNat + m.toNat)
  | .SBC => (dataByte? i s).bind fun m => widthFault (faultSite i s) (s.a.toNat - m.toNat)
  | .ASL => (targetByte? i s).bind fun v => widthFault (faultSite i s) (2 * v.toNat)
  | .INC => (dataByte? i s).bind fun m => widthFault (faultSite i s) (m.toNat + 1)
  | .DEC => (dataByte? i s).bind fun m => widthFault (faultSite i s) (m.toNat - 1)
  | .INX => widthFault (faultSite i s) (s.x.toNat + 1)
  | .INY => widthFault (faultSite i s) (s.y.toNat + 1)
  | .PHA | .PHP => if s.sp = 0x00 then some (.stackOverflow (faultSite i s) 0x00) else none
  | .PLA | .PLP => if s.sp = 0xFF then some (.stackUnderflow (faultSite i s) 0xFF) else none
  | .AND | .EOR | .ORA | .LSR | .ROL | .ROR => none
  | .LDA | .LDX | .LDY | .STA | .STX | .STY => none
  | .TAX | .TAY | .TSX | .TXA | .TXS | .TYA | .DEX | .DEY => none

/-- The one fault an instruction reports, the first condition met, or `none`: the step is safe (60_exceptions.md R409). -/
def faultOf (i : Instr) (s : State) : Option Fault :=
  match cycleFault i s with
  | some f => some f
  | none => semanticFault i s

/-- A result with its next state changed. -/
def mapNext (g : State → State) : Result → Result
  | .next t => .next (g t)
  | .fault f => .fault f
  | .refused r => .refused r

/-- The invariant of every state: memory is in its canonical form. (That registers and cells hold 0 to 255 and PC 0 to 0xFFFF,
10_state.md R31, R35, R42, is in their types.) -/
def State.Inv (s : State) : Prop := s.mem.wf = true

end Sys2Proof.Machine
end

