-- ==== Sys2Proof/Certificates/Slice0/Obligations.lean ====
section
/-! DEFINITION. The statements for the provers. Each docstring says which sentence of the spec it formalises; what rests on a
decision the spec marks as its own names that decision and the log entry. -/

open Sys2Proof Sys2Proof.Machine

/-- For every instruction i of all 113 constructors, with every operand value, and every bytes after it: decode (encode i
++ rest) answers i and rest. The opcode bytes are the model's reading of the spec's decision D3 (log entry 1). Rests
on 30_encoding.md section 4 (opcode map); 92_eei_decisions.md D3. -/
def Obligations.DecodingAnEncodingGivesTheInstruction : Prop :=
  ∀ (i : Instr) (rest : List Byte), decode (encode i ++ rest) = .ok (i, rest)

/-- For every list of bytes that decodes to i with rest left over, the bytes are encode i followed by rest: each word has
one meaning. Rests on 30_encoding.md section 4 (opcode map); 92_eei_decisions.md D3. -/
def Obligations.EncodingADecodedInstructionGivesItsBytes : Prop :=
  ∀ (bytes : List Byte) (i : Instr) (rest : List Byte), decode bytes = .ok (i, rest) → bytes = encode i ++ rest

/-- A slot is empty exactly when its byte is one of the 143 that R99 lists, there are 143 of them, and in every state
whose byte at PC is one of them the step raises IllegalOpcode with PC_op and the byte (no next state: the state is as
before). Which slots are empty is the spec's decision D3 (log entry 1). Formalises R99. -/
def Obligations.ListedEmptySlotsAreIllegal : Prop :=
  (∀ b : Byte, slot b = none ↔ b ∈ emptySlots) ∧ emptySlots.length = 143 ∧ emptySlots.Nodup ∧
  ∀ s : State, s.read s.pc ∈ emptySlots → step s = .fault (.illegalOpcode ⟨s.pc, s.read s.pc⟩)

/-- For every populated slot (op, m) and any operand bytes, as many as m is wide, the opcode byte followed by them
decodes to an instruction of that op and that mode with exactly those operand bytes, whatever bytes follow.
Formalises R94. -/
def Obligations.OperandBytesNeverReject : Prop :=
  ∀ (b : Byte) (op : Op) (m : Option Mode) (operand rest : List Byte),
    slot b = some (op, m) → operand.length = modeWidth m →
    ∃ i, decode (b :: (operand ++ rest)) = .ok (i, rest) ∧ i.op = op ∧ i.mode? = m ∧ i.operandBytes = operand

/-- For every instruction: its bytes are its opcode byte and then its operand bytes, as many as its mode's width, which
is 0, 1 or 2; so it is 1, 2 or 3 bytes long; the slot of its opcode byte holds its operation and mode; and no
instruction has mode relative or indirect. Formalises R90. -/
def Obligations.InstructionIsOpcodeAndOperandBytes : Prop :=
  ∀ i : Instr,
    encode i = i.opcode :: i.operandBytes ∧ i.operandBytes.length = i.width ∧ i.width ≤ 2 ∧
    ((encode i).length = 1 ∨ (encode i).length = 2 ∨ (encode i).length = 3) ∧
    slot i.opcode = some (i.op, i.mode?) ∧ i.mode? ≠ some .relative ∧ i.mode? ≠ some .indirect

/-- ADC #$23 (69 23), SBC $1234,X (FD 34 12), ROL $10,X (36 10), LDA ($20),Y (B1 20), STX $F0,Y (96 F0), TXS (9A), DEC
$1234 (CE 34 12), PHP (08) decode to adcImm, sbcAbsX, rolZpX, ldaIndY, stxZpY, txs, decAbs and php. Rests on
30_encoding.md section 4 (opcode map); 95_test_vectors.md parts L1 and L2. -/
def Obligations.WrittenOutWordsDecode : Prop :=
  decode [0x69, 0x23] = .ok (.adcImm 0x23, []) ∧ decode [0xFD, 0x34, 0x12] = .ok (.sbcAbsX 0x1234, []) ∧
  decode [0x36, 0x10] = .ok (.rolZpX 0x10, []) ∧ decode [0xB1, 0x20] = .ok (.ldaIndY 0x20, []) ∧
  decode [0x96, 0xF0] = .ok (.stxZpY 0xF0, []) ∧ decode [0x9A] = .ok (.txs, []) ∧
  decode [0xCE, 0x34, 0x12] = .ok (.decAbs 0x1234, []) ∧ decode [0x08] = .ok (.php, [])

/-- When the opcode byte at PC and the bytes after it (as far as memory reaches) decode to i, i is well-formed and step
at that state is exec of i at that state. exec itself advances PC and step adds nothing around it. Rests on
41_execution_cycle.md section 2. -/
def Obligations.StepRunsTheDecodedInstruction : Prop :=
  ∀ (s : State) (i : Instr) (rest : List Byte),
    decode (s.read s.pc :: operandBytesAt s) = .ok (i, rest) → i.wellFormed = true ∧ step s = exec i s

/-- For every state, with b the byte at PC: an empty slot raises IllegalOpcode; a populated slot (op, m) with PC + 1 + w
> 0xFFFF raises PCOverflow; otherwise the step is exec of the instruction with opcode byte b, operation op and the
operand of mode m read at PC + 1. The PCOverflow clause is the spec's decision D11, the order its decision D13 (log
entry 3). Rests on 41_execution_cycle.md section 2; 60_exceptions.md section 2; 92_eei_decisions.md D11, D13. -/
def Obligations.StepFollowsTheFetchOrder : Prop :=
  ∀ s : State,
    (slot (s.read s.pc) = none → step s = .fault (.illegalOpcode ⟨s.pc, s.read s.pc⟩)) ∧
    (∀ op m, slot (s.read s.pc) = some (op, m) → 0xFFFF < s.pc.toNat + 1 + modeWidth m →
      step s = .fault (.pcOverflow ⟨s.pc, s.read s.pc⟩)) ∧
    (∀ op m, slot (s.read s.pc) = some (op, m) → s.pc.toNat + 1 + modeWidth m ≤ 0xFFFF →
      ∃ i, i.opcode = s.read s.pc ∧ i.op = op ∧ i.operand? = m.map (fun m => operandAt m s) ∧ step s = exec i s)

/-- For every instruction and every state with canonical memory in which it fits: its spelled line assembles to some
bytes, 1 + w of them; with those bytes at PC, the step is exec of that instruction, and a next state has PC advanced
by exactly as many bytes. Formalises R119. -/
def Obligations.AssembledLineRunsInOneStep : Prop :=
  ∀ (i : Instr) (s : State), s.Inv → s.pc.toNat + 1 + i.width ≤ 0xFFFF →
    ∃ bytes, Assembler.assembleLine (Assembler.spell i) = .ok bytes ∧ bytes.length = 1 + i.width ∧
      step (placeInstruction bytes s) = exec i (placeInstruction bytes s) ∧
      ∀ t, step (placeInstruction bytes s) = .next t → t.pc.toNat = s.pc.toNat + bytes.length

/-- For every instruction and state: if exec answers next t, then t.pc is the old PC plus 1 plus the operand width, with
no wrap. Formalises R166. -/
def Obligations.CompletedInstructionAdvancesPc : Prop :=
  ∀ (i : Instr) (s t : State), exec i s = .next t → t.pc.toNat = s.pc.toNat + 1 + i.width

/-- For every instruction of all 113 constructors and every state: if the tables of R146 and R400, in the order of R409
(PCOverflow, the resolver's, the semantic operation's), name a fault for it, exec answers exactly that fault with
PC_op, opcode and value; otherwise exec answers a next state. The six faults but IllegalOpcode are the spec's own
decisions D1, D6, D7, D8, D11, D13 (log entry 3). Rests on 60_exceptions.md sections 1 and 2; 40_addressing_modes.md
section 3; 92_eei_decisions.md D1, D6, D7, D8, D11, D13. -/
def Obligations.ExecFaultsExactlyWhereTheSpecSays : Prop :=
  ∀ (i : Instr) (s : State),
    (∀ f, faultOf i s = some f → exec i s = .fault f) ∧ (faultOf i s = none → ∃ t, exec i s = .next t)

/-- For every state the step is not a refusal, and if it is a fault, the fault's record has the PC and the byte at PC of
that state, its code is 1 to 7, and its value is absent just for codes 1 and 2. The record is the spec's own decision
(D12, D27; log entry 3). Rests on 60_exceptions.md section 1; 92_eei_decisions.md D12, D27. -/
def Obligations.StepIsNeverRefused : Prop :=
  ∀ s : State, (∀ r, step s ≠ .refused r) ∧
    ∀ f, step s = .fault f →
      f.record.pcOp = s.pc ∧ f.record.opcode = s.read s.pc ∧ 1 ≤ f.record.code ∧ f.record.code ≤ 7 ∧
      (f.record.value = none ↔ f.record.code ≤ 2)

/-- With the operand bytes at PC_op + 1 (and + 2) inside memory: immediate gives EA = PC_op + 1, whose byte is the data
byte; zeroPage gives the operand byte; zeroPageX and zeroPageY give (byte + index) mod 0x100; absolute gives low +
256 * high. None is a fault. Formalises R133, R134, R135, R136, R137. -/
def Obligations.MaskedAndPlainModesResolve : Prop :=
  ∀ (site : Site) (s : State), s.pc.toNat + 2 ≤ 0xFFFF →
    let b := s.read (s.pc + 1)
    resolve site (operandAt .immediate s) s = .ok (s.pc + 1) ∧
    operandByte site (operandAt .immediate s) s = .ok b ∧
    resolve site (operandAt .zeroPage s) s = .ok (BitVec.ofNat 16 b.toNat) ∧
    resolve site (operandAt .zeroPageX s) s = .ok (BitVec.ofNat 16 ((b.toNat + s.x.toNat) % 0x100)) ∧
    resolve site (operandAt .zeroPageY s) s = .ok (BitVec.ofNat 16 ((b.toNat + s.y.toNat) % 0x100)) ∧
    resolve site (operandAt .absolute s) s = .ok (BitVec.ofNat 16 (b.toNat + 0x100 * (s.read (s.pc + 2)).toNat))

/-- For every operand word w: absoluteX resolves to w + X where the exact sum is at most 0xFFFF and otherwise raises
AddressOverflow with the sum; absoluteY the same with Y. The fault is the spec's decision D7 (log entry 3). Rests on
40_addressing_modes.md section 2 (absoluteX, absoluteY); 90_conflicts.md C2; 92_eei_decisions.md D7. -/
def Obligations.IndexedAbsoluteModesResolve : Prop :=
  ∀ (site : Site) (w : Word) (s : State),
    (w.toNat + s.x.toNat ≤ 0xFFFF → resolve site (.absoluteX w) s = .ok (BitVec.ofNat 16 (w.toNat + s.x.toNat))) ∧
    (0xFFFF < w.toNat + s.x.toNat →
      resolve site (.absoluteX w) s = .error (.addressOverflow site (w.toNat + s.x.toNat : Nat))) ∧
    (w.toNat + s.y.toNat ≤ 0xFFFF → resolve site (.absoluteY w) s = .ok (BitVec.ofNat 16 (w.toNat + s.y.toNat))) ∧
    (0xFFFF < w.toNat + s.y.toNat →
      resolve site (.absoluteY w) s = .error (.addressOverflow site (w.toNat + s.y.toNat : Nat)))

/-- For every operand byte b: with b + X at most 0xFE, EA is the little-endian word at b + X; otherwise WrapUnsettled
with the unwrapped b + X. The fault is the spec's decision D8 (log entry 3). Rests on 40_addressing_modes.md section
2 (indexedIndirect); 90_conflicts.md C7; 92_eei_decisions.md D8. -/
def Obligations.IndexedIndirectResolves : Prop :=
  ∀ (site : Site) (b : Byte) (s : State),
    (b.toNat + s.x.toNat ≤ 0xFE →
      resolve site (.indexedIndirect b) s =
        .ok (BitVec.ofNat 16 ((s.read (BitVec.ofNat 16 (b.toNat + s.x.toNat))).toNat +
          0x100 * (s.read (BitVec.ofNat 16 (b.toNat + s.x.toNat + 1))).toNat))) ∧
    (0xFE < b.toNat + s.x.toNat →
      resolve site (.indexedIndirect b) s = .error (.wrapUnsettled site (b.toNat + s.x.toNat : Nat)))

/-- For every operand byte b: b = 0xFF raises WrapUnsettled with 0x100; otherwise, with base the little-endian word at b,
EA is base + Y where the exact sum is at most 0xFFFF, and AddressOverflow with the sum otherwise. The faults are the
spec's decisions D7 and D8 (log entry 3). Rests on 40_addressing_modes.md section 2 (indirectIndexed);
92_eei_decisions.md D7, D8. -/
def Obligations.IndirectIndexedResolves : Prop :=
  ∀ (site : Site) (b : Byte) (s : State),
    let base := (s.read (BitVec.ofNat 16 b.toNat)).toNat + 0x100 * (s.read (BitVec.ofNat 16 (b.toNat + 1))).toNat
    (b = 0xFF → resolve site (.indirectIndexed b) s = .error (.wrapUnsettled site 0x100)) ∧
    (b ≠ 0xFF → base + s.y.toNat ≤ 0xFFFF →
      resolve site (.indirectIndexed b) s = .ok (BitVec.ofNat 16 (base + s.y.toNat))) ∧
    (b ≠ 0xFF → 0xFFFF < base + s.y.toNat →
      resolve site (.indirectIndexed b) s = .error (.addressOverflow site (base + s.y.toNat : Nat)))

/-- indirect: pointer 0xFFFF raises AddressOverflow with 0x10000, any other gives the little-endian word at the pointer.
relative: PC_op + 1 plus the signed byte where that is in 0 to 0xFFFF, else AddressOverflow with it. Both readings
are the spec's decisions D9 and D10 (log entry 8). Rests on 40_addressing_modes.md section 2 (indirect, relative);
92_eei_decisions.md D9, D10. -/
def Obligations.UnboundModesResolve : Prop :=
  ∀ (site : Site) (w : Word) (b : Byte) (s : State),
    resolve site (.indirect 0xFFFF) s = .error (.addressOverflow site 0x10000) ∧
    (w ≠ 0xFFFF → resolve site (.indirect w) s =
      .ok (BitVec.ofNat 16 ((s.read w).toNat + 0x100 * (s.read (BitVec.ofNat 16 (w.toNat + 1))).toNat))) ∧
    (0 ≤ s.pc.toNat + 1 + b.toInt → s.pc.toNat + 1 + b.toInt ≤ 0xFFFF →
      resolve site (.relative b) s = .ok (BitVec.ofInt 16 (s.pc.toNat + 1 + b.toInt))) ∧
    (s.pc.toNat + 1 + b.toInt < 0 ∨ 0xFFFF < s.pc.toNat + 1 + b.toInt →
      resolve site (.relative b) s = .error (.addressOverflow site (s.pc.toNat + 1 + b.toInt)))

/-- ADC is bound to exactly the opcode bytes and modes the spec lists (adcImm, adcZp, adcZpX, adcAbs, adcAbsX, adcAbsY,
adcIndX, adcIndY). Where the cycle's checks fail (PCOverflow, the resolver's), it faults so. Otherwise there is a
data byte m, and exec answers the state with A + m in A and PC advanced, all else the same, where A + m is at most
0xFF, and WidthOverflow with A + m otherwise. The opcode bytes are the spec's decision D3 (log entry 1), the faults
its D1, D7, D8 and D11 (log entry 3). Rests on 42_arith_logic.md ADC; 92_eei_decisions.md D1, D3, D7, D8, D11. -/
def Obligations.AdcAddsWithoutCarry : Prop :=
  (∀ b m, slot b = some (.ADC, m) ↔ (b, m) ∈
      [(0x69, some .immediate), (0x65, some .zeroPage), (0x75, some .zeroPageX), (0x6D, some .absolute),
      (0x7D, some .absoluteX), (0x79, some .absoluteY), (0x61, some .indexedIndirect),
      (0x71, some .indirectIndexed)]) ∧
  ∀ (i : Instr) (s : State), i.op = .ADC →
    (∀ f, cycleFault i s = some f → exec i s = .fault f) ∧
    (cycleFault i s = none → ∃ m, dataByte? i s = some m ∧
      (s.a.toNat + m.toNat ≤ 0xFF → exec i s = .next { s with a := s.a + m, pc := pcAfter i s }) ∧
      (0xFF < s.a.toNat + m.toNat → exec i s = .fault (.widthOverflow (faultSite i s) (s.a.toNat + m.toNat))))

/-- AND is bound to exactly the opcode bytes and modes the spec lists (andImm, andZp, andZpX, andAbs, andAbsX, andAbsY,
andIndX, andIndY). Where no check of the cycle fails, there is a data byte m, and exec answers the state with the
bitwise AND of A and m in A and PC advanced, all else the same. The opcode bytes are the spec's decision D3 (log
entry 1). Formalises R201. -/
def Obligations.AndIsBitwiseAnd : Prop :=
  (∀ b m, slot b = some (.AND, m) ↔ (b, m) ∈
      [(0x29, some .immediate), (0x25, some .zeroPage), (0x35, some .zeroPageX), (0x2D, some .absolute),
      (0x3D, some .absoluteX), (0x39, some .absoluteY), (0x21, some .indexedIndirect),
      (0x31, some .indirectIndexed)]) ∧
  ∀ (i : Instr) (s : State), i.op = .AND → cycleFault i s = none →
    ∃ m, dataByte? i s = some m ∧ exec i s = .next { s with a := s.a &&& m, pc := pcAfter i s }

/-- EOR is bound to exactly the opcode bytes and modes the spec lists (eorImm, eorZp, eorZpX, eorAbs, eorAbsX, eorAbsY,
eorIndX, eorIndY). Where no check of the cycle fails, there is a data byte m, and exec answers the state with the
bitwise exclusive OR of A and m in A and PC advanced, all else the same. The opcode bytes are the spec's decision D3
(log entry 1). Formalises R202. -/
def Obligations.EorIsBitwiseExclusiveOr : Prop :=
  (∀ b m, slot b = some (.EOR, m) ↔ (b, m) ∈
      [(0x49, some .immediate), (0x45, some .zeroPage), (0x55, some .zeroPageX), (0x4D, some .absolute),
      (0x5D, some .absoluteX), (0x59, some .absoluteY), (0x41, some .indexedIndirect),
      (0x51, some .indirectIndexed)]) ∧
  ∀ (i : Instr) (s : State), i.op = .EOR → cycleFault i s = none →
    ∃ m, dataByte? i s = some m ∧ exec i s = .next { s with a := s.a ^^^ m, pc := pcAfter i s }

/-- ORA is bound to exactly the opcode bytes and modes the spec lists (oraImm, oraZp, oraZpX, oraAbs, oraAbsX, oraAbsY,
oraIndX, oraIndY). Where no check of the cycle fails, there is a data byte m, and exec answers the state with the
bitwise inclusive OR of A and m in A and PC advanced, all else the same. The opcode bytes are the spec's decision D3
(log entry 1). Formalises R203. -/
def Obligations.OraIsBitwiseInclusiveOr : Prop :=
  (∀ b m, slot b = some (.ORA, m) ↔ (b, m) ∈
      [(0x09, some .immediate), (0x05, some .zeroPage), (0x15, some .zeroPageX), (0x0D, some .absolute),
      (0x1D, some .absoluteX), (0x19, some .absoluteY), (0x01, some .indexedIndirect),
      (0x11, some .indirectIndexed)]) ∧
  ∀ (i : Instr) (s : State), i.op = .ORA → cycleFault i s = none →
    ∃ m, dataByte? i s = some m ∧ exec i s = .next { s with a := s.a ||| m, pc := pcAfter i s }

/-- SBC is bound to exactly the opcode bytes and modes the spec lists (sbcImm, sbcZp, sbcZpX, sbcAbs, sbcAbsX, sbcAbsY,
sbcIndX, sbcIndY). Where the cycle's checks fail (PCOverflow, the resolver's), it faults so. Otherwise there is a
data byte m, and exec answers the state with A - m in A and PC advanced, all else the same, where m is at most A, and
WidthOverflow with the negative A - m otherwise. The opcode bytes are the spec's decision D3 (log entry 1), the
faults its D1, D7, D8 and D11 (log entry 3). Rests on 42_arith_logic.md SBC; 92_eei_decisions.md D1, D3, D7, D8, D11. -/
def Obligations.SbcSubtractsWithoutBorrow : Prop :=
  (∀ b m, slot b = some (.SBC, m) ↔ (b, m) ∈
      [(0xE9, some .immediate), (0xE5, some .zeroPage), (0xF5, some .zeroPageX), (0xED, some .absolute),
      (0xFD, some .absoluteX), (0xF9, some .absoluteY), (0xE1, some .indexedIndirect),
      (0xF1, some .indirectIndexed)]) ∧
  ∀ (i : Instr) (s : State), i.op = .SBC →
    (∀ f, cycleFault i s = some f → exec i s = .fault f) ∧
    (cycleFault i s = none → ∃ m, dataByte? i s = some m ∧
      (m.toNat ≤ s.a.toNat → exec i s = .next { s with a := s.a - m, pc := pcAfter i s }) ∧
      (s.a.toNat < m.toNat → exec i s = .fault (.widthOverflow (faultSite i s) ((s.a.toNat : Int) - m.toNat))))

/-- ASL is bound to exactly the opcode bytes and modes the spec lists (aslAcc, aslZp, aslZpX, aslAbs, aslAbsX). Where the
cycle's checks fail (PCOverflow, the resolver's), it faults so. Otherwise, without a mode A, and with a mode the byte
at EA, is replaced by twice itself where it is below 0x80, PC advances and all else is the same; from 0x80 on it is
WidthOverflow with twice the target. The opcode bytes are the spec's decision D3 (log entry 1), the faults its D1,
D7, D8 and D11 (log entry 3). Rests on 43_shift_rotate.md ASL; 92_eei_decisions.md D1, D3, D7, D8, D11. -/
def Obligations.AslShiftsLeftExactly : Prop :=
  (∀ b m, slot b = some (.ASL, m) ↔ (b, m) ∈
      [(0x0A, none), (0x06, some .zeroPage), (0x16, some .zeroPageX), (0x0E, some .absolute),
      (0x1E, some .absoluteX)]) ∧
  ∀ (i : Instr) (s : State), i.op = .ASL →
    (∀ f, cycleFault i s = some f → exec i s = .fault f) ∧
    (cycleFault i s = none →
      (i.mode? = none →
        (s.a.toNat < 0x80 → exec i s = .next { s with a := BitVec.ofNat 8 (2 * s.a.toNat), pc := pcAfter i s }) ∧
        (0x80 ≤ s.a.toNat → exec i s = .fault (.widthOverflow (faultSite i s) (2 * s.a.toNat)))) ∧
      (i.mode? ≠ none → ∃ ea, effectiveAddress? i s = some ea ∧
        ((s.read ea).toNat < 0x80 → exec i s = .next { s with
          mem := s.mem.write ea.toNat (BitVec.ofNat 8 (2 * (s.read ea).toNat)), pc := pcAfter i s }) ∧
        (0x80 ≤ (s.read ea).toNat → exec i s = .fault (.widthOverflow (faultSite i s) (2 * (s.read ea).toNat)))))

/-- LSR is bound to exactly the opcode bytes and modes the spec lists (lsrAcc, lsrZp, lsrZpX, lsrAbs, lsrAbsX). Where no
check of the cycle fails, without a mode A, and with a mode the byte at EA, is replaced by floor(v / 2), PC advances
and all else is the same. The opcode bytes are the spec's decision D3 (log entry 1). Formalises R221. -/
def Obligations.LsrShiftsRightWithZero : Prop :=
  (∀ b m, slot b = some (.LSR, m) ↔ (b, m) ∈
      [(0x4A, none), (0x46, some .zeroPage), (0x56, some .zeroPageX), (0x4E, some .absolute),
      (0x5E, some .absoluteX)]) ∧
  ∀ (i : Instr) (s : State), i.op = .LSR → cycleFault i s = none →
    (i.mode? = none → exec i s = .next { s with a := BitVec.ofNat 8 (s.a.toNat / 2), pc := pcAfter i s }) ∧
    (i.mode? ≠ none → ∃ ea, effectiveAddress? i s = some ea ∧
      exec i s = .next { s with
        mem := s.mem.write ea.toNat (BitVec.ofNat 8 ((s.read ea).toNat / 2)), pc := pcAfter i s })

/-- ROL is bound to exactly the opcode bytes and modes the spec lists (rolAcc, rolZp, rolZpX, rolAbs, rolAbsX). Where no
check of the cycle fails, without a mode A, and with a mode the byte at EA, is replaced by (2 v mod 0x100) + (v /
0x80), bit 7 into bit 0, PC advances and all else is the same. Eight rotations give back any byte. The opcode bytes
are the spec's decision D3 (log entry 1). Formalises R222. -/
def Obligations.RolRotatesLeft : Prop :=
  (∀ b m, slot b = some (.ROL, m) ↔ (b, m) ∈
      [(0x2A, none), (0x26, some .zeroPage), (0x36, some .zeroPageX), (0x2E, some .absolute),
      (0x3E, some .absoluteX)]) ∧
  ∀ (i : Instr) (s : State), i.op = .ROL → cycleFault i s = none →
    (i.mode? = none → exec i s = .next { s with a := BitVec.ofNat 8 (2 * s.a.toNat % 0x100 + s.a.toNat / 0x80), pc := pcAfter i s }) ∧
    (i.mode? ≠ none → ∃ ea, effectiveAddress? i s = some ea ∧
      exec i s = .next { s with
        mem := s.mem.write ea.toNat (BitVec.ofNat 8 (2 * (s.read ea).toNat % 0x100 + (s.read ea).toNat / 0x80)), pc := pcAfter i s }) ∧
    (∀ v : Byte, rotateLeft^[8] v = v)

/-- ROR is bound to exactly the opcode bytes and modes the spec lists (rorAcc, rorZp, rorZpX, rorAbs, rorAbsX). Where no
check of the cycle fails, without a mode A, and with a mode the byte at EA, is replaced by v / 2 + 0x80 (v mod 2),
bit 0 into bit 7, PC advances and all else is the same. The ROR result of the ROL result of any byte is that byte.
The opcode bytes are the spec's decision D3 (log entry 1). Formalises R223. -/
def Obligations.RorRotatesRight : Prop :=
  (∀ b m, slot b = some (.ROR, m) ↔ (b, m) ∈
      [(0x6A, none), (0x66, some .zeroPage), (0x76, some .zeroPageX), (0x6E, some .absolute),
      (0x7E, some .absoluteX)]) ∧
  ∀ (i : Instr) (s : State), i.op = .ROR → cycleFault i s = none →
    (i.mode? = none → exec i s = .next { s with a := BitVec.ofNat 8 (s.a.toNat / 2 + 0x80 * (s.a.toNat % 2)), pc := pcAfter i s }) ∧
    (i.mode? ≠ none → ∃ ea, effectiveAddress? i s = some ea ∧
      exec i s = .next { s with
        mem := s.mem.write ea.toNat (BitVec.ofNat 8 ((s.read ea).toNat / 2 + 0x80 * ((s.read ea).toNat % 2))), pc := pcAfter i s }) ∧
    (∀ v : Byte, rotateRight (rotateLeft v) = v)

/-- LDA is bound to exactly the opcode bytes and modes the spec lists (ldaImm, ldaZp, ldaZpX, ldaAbs, ldaAbsX, ldaAbsY,
ldaIndX, ldaIndY). Where no check of the cycle fails, there is a data byte m, and exec answers the state with m in A
and PC advanced, all else the same. The opcode bytes are the spec's decision D3 (log entry 1). Formalises R240. -/
def Obligations.LdaLoadsA : Prop :=
  (∀ b m, slot b = some (.LDA, m) ↔ (b, m) ∈
      [(0xA9, some .immediate), (0xA5, some .zeroPage), (0xB5, some .zeroPageX), (0xAD, some .absolute),
      (0xBD, some .absoluteX), (0xB9, some .absoluteY), (0xA1, some .indexedIndirect),
      (0xB1, some .indirectIndexed)]) ∧
  ∀ (i : Instr) (s : State), i.op = .LDA →
    (cycleFault i s = none → ∃ m, dataByte? i s = some m ∧ exec i s = .next { s with a := m, pc := pcAfter i s })

/-- LDX is bound to exactly the opcode bytes and modes the spec lists (ldxImm, ldxZp, ldxZpY, ldxAbs, ldxAbsY). Where no
check of the cycle fails, there is a data byte m, and exec answers the state with m in X and PC advanced, all else
the same. No form of it is indexed by the register it writes. Its zeroPageY form wraps inside the zero page. The
opcode bytes are the spec's decision D3 (log entry 1). Formalises R241. -/
def Obligations.LdxLoadsX : Prop :=
  (∀ b m, slot b = some (.LDX, m) ↔ (b, m) ∈
      [(0xA2, some .immediate), (0xA6, some .zeroPage), (0xB6, some .zeroPageY), (0xAE, some .absolute),
      (0xBE, some .absoluteY)]) ∧
  ∀ (i : Instr) (s : State), i.op = .LDX →
    (cycleFault i s = none → ∃ m, dataByte? i s = some m ∧ exec i s = .next { s with x := m, pc := pcAfter i s }) ∧
    i.mode? ≠ some .zeroPageX ∧ i.mode? ≠ some .absoluteX ∧
    ∀ b, i = .ldxZpY b → effectiveAddress? i s = some (BitVec.ofNat 16 ((b.toNat + s.y.toNat) % 0x100))

/-- LDY is bound to exactly the opcode bytes and modes the spec lists (ldyImm, ldyZp, ldyZpX, ldyAbs, ldyAbsX). Where no
check of the cycle fails, there is a data byte m, and exec answers the state with m in Y and PC advanced, all else
the same. No form of it is indexed by the register it writes. The opcode bytes are the spec's decision D3 (log entry
1). Formalises R242. -/
def Obligations.LdyLoadsY : Prop :=
  (∀ b m, slot b = some (.LDY, m) ↔ (b, m) ∈
      [(0xA0, some .immediate), (0xA4, some .zeroPage), (0xB4, some .zeroPageX), (0xAC, some .absolute),
      (0xBC, some .absoluteX)]) ∧
  ∀ (i : Instr) (s : State), i.op = .LDY →
    (cycleFault i s = none → ∃ m, dataByte? i s = some m ∧ exec i s = .next { s with y := m, pc := pcAfter i s }) ∧
    i.mode? ≠ some .zeroPageY ∧ i.mode? ≠ some .absoluteY

/-- STA is bound to exactly the opcode bytes and modes the spec lists (staZp, staZpX, staAbs, staAbsX, staAbsY, staIndX,
staIndY). Where no check of the cycle fails, there is an effective address ea, computed from the state before the
store, and exec answers the state with the byte A written at ea and PC advanced, all else the same; the byte then
reads back at ea, for the next fetch as for a load (canonical memory assumed). The opcode bytes are the spec's
decision D3 (log entry 1). Formalises R243. -/
def Obligations.StaStoresA : Prop :=
  (∀ b m, slot b = some (.STA, m) ↔ (b, m) ∈
      [(0x85, some .zeroPage), (0x95, some .zeroPageX), (0x8D, some .absolute), (0x9D, some .absoluteX),
      (0x99, some .absoluteY), (0x81, some .indexedIndirect), (0x91, some .indirectIndexed)]) ∧
  ∀ (i : Instr) (s : State), i.op = .STA →
    (cycleFault i s = none → ∃ ea, effectiveAddress? i s = some ea ∧
      exec i s = .next { s with mem := s.mem.write ea.toNat s.a, pc := pcAfter i s } ∧
      (s.mem.wf = true → ∀ t, exec i s = .next t → t.read ea = s.a))

/-- STX is bound to exactly the opcode bytes and modes the spec lists (stxZp, stxZpY, stxAbs). Where no check of the
cycle fails, there is an effective address ea, computed from the state before the store, and exec answers the state
with the byte X written at ea and PC advanced, all else the same; the byte then reads back at ea, for the next fetch
as for a load (canonical memory assumed). Its zero-page indexed form wraps inside the zero page. Its modes cannot
fault: where PC_op + 1 + w is at most 0xFFFF the checks pass. The opcode bytes are the spec's decision D3 (log entry
1). Formalises R244. -/
def Obligations.StxStoresX : Prop :=
  (∀ b m, slot b = some (.STX, m) ↔ (b, m) ∈
      [(0x86, some .zeroPage), (0x96, some .zeroPageY), (0x8E, some .absolute)]) ∧
  ∀ (i : Instr) (s : State), i.op = .STX →
    (cycleFault i s = none → ∃ ea, effectiveAddress? i s = some ea ∧
      exec i s = .next { s with mem := s.mem.write ea.toNat s.x, pc := pcAfter i s } ∧
      (s.mem.wf = true → ∀ t, exec i s = .next t → t.read ea = s.x)) ∧
    (s.pc.toNat + 1 + i.width ≤ 0xFFFF → cycleFault i s = none) ∧
    ∀ b, i = .stxZpY b → effectiveAddress? i s = some (BitVec.ofNat 16 ((b.toNat + s.y.toNat) % 0x100))

/-- STY is bound to exactly the opcode bytes and modes the spec lists (styZp, styZpX, styAbs). Where no check of the
cycle fails, there is an effective address ea, computed from the state before the store, and exec answers the state
with the byte Y written at ea and PC advanced, all else the same; the byte then reads back at ea, for the next fetch
as for a load (canonical memory assumed). Its zero-page indexed form wraps inside the zero page. Its modes cannot
fault: where PC_op + 1 + w is at most 0xFFFF the checks pass. The opcode bytes are the spec's decision D3 (log entry
1). Formalises R245. -/
def Obligations.StyStoresY : Prop :=
  (∀ b m, slot b = some (.STY, m) ↔ (b, m) ∈
      [(0x84, some .zeroPage), (0x94, some .zeroPageX), (0x8C, some .absolute)]) ∧
  ∀ (i : Instr) (s : State), i.op = .STY →
    (cycleFault i s = none → ∃ ea, effectiveAddress? i s = some ea ∧
      exec i s = .next { s with mem := s.mem.write ea.toNat s.y, pc := pcAfter i s } ∧
      (s.mem.wf = true → ∀ t, exec i s = .next t → t.read ea = s.y)) ∧
    (s.pc.toNat + 1 + i.width ≤ 0xFFFF → cycleFault i s = none) ∧
    ∀ b, i = .styZpX b → effectiveAddress? i s = some (BitVec.ofNat 16 ((b.toNat + s.x.toNat) % 0x100))

/-- Each of tax, tay, tsx, txa, txs, tya has its one opcode byte with no mode. In every state with PC below 0xFFFF it
answers the state with its destination register equal to its source register and PC + 1, all else the same; at PC =
0xFFFF it is PCOverflow. After TXS a PHA writes at 0x0100 + X, where X is not 0x00. The opcode bytes are the spec's
decision D3 (log entry 1), PCOverflow its D11 (log entry 3). Rests on 45_transfer.md TAX, TAY, TSX, TXA, TXS, TYA;
47_stack.md PHA; 92_eei_decisions.md D3, D11. -/
def Obligations.TransfersCopyOneRegister : Prop :=
  (∀ b m, slot b = some (.TAX, m) ↔ b = 0xAA ∧ m = none) ∧
  (∀ b m, slot b = some (.TAY, m) ↔ b = 0xA8 ∧ m = none) ∧
  (∀ b m, slot b = some (.TSX, m) ↔ b = 0xBA ∧ m = none) ∧
  (∀ b m, slot b = some (.TXA, m) ↔ b = 0x8A ∧ m = none) ∧
  (∀ b m, slot b = some (.TXS, m) ↔ b = 0x9A ∧ m = none) ∧
  (∀ b m, slot b = some (.TYA, m) ↔ b = 0x98 ∧ m = none) ∧
  ∀ s : State,
    (s.pc.toNat + 1 ≤ 0xFFFF →
      exec .tax s = .next { s with x := s.a, pc := BitVec.ofNat 16 (s.pc.toNat + 1) } ∧
      exec .tay s = .next { s with y := s.a, pc := BitVec.ofNat 16 (s.pc.toNat + 1) } ∧
      exec .tsx s = .next { s with x := s.sp, pc := BitVec.ofNat 16 (s.pc.toNat + 1) } ∧
      exec .txa s = .next { s with a := s.x, pc := BitVec.ofNat 16 (s.pc.toNat + 1) } ∧
      exec .txs s = .next { s with sp := s.x, pc := BitVec.ofNat 16 (s.pc.toNat + 1) } ∧
      exec .tya s = .next { s with a := s.y, pc := BitVec.ofNat 16 (s.pc.toNat + 1) }) ∧
    (0xFFFF < s.pc.toNat + 1 →
      exec .tax s = .fault (.pcOverflow ⟨s.pc, 0xAA⟩) ∧
      exec .tay s = .fault (.pcOverflow ⟨s.pc, 0xA8⟩) ∧
      exec .tsx s = .fault (.pcOverflow ⟨s.pc, 0xBA⟩) ∧
      exec .txa s = .fault (.pcOverflow ⟨s.pc, 0x8A⟩) ∧
      exec .txs s = .fault (.pcOverflow ⟨s.pc, 0x9A⟩) ∧
      exec .tya s = .fault (.pcOverflow ⟨s.pc, 0x98⟩)) ∧
    (s.pc.toNat + 2 ≤ 0xFFFF → s.x ≠ 0x00 → ∃ t u, exec .txs s = .next t ∧ exec .pha t = .next u ∧
      u.mem = s.mem.write (0x100 + s.x.toNat) s.a)

/-- INC is bound to exactly the opcode bytes and modes the spec lists (incZp, incZpX, incAbs, incAbsX). Where the cycle's
checks fail (PCOverflow, the resolver's), it faults so. Otherwise there is an effective address ea, and exec answers
the state with the byte at ea plus 1 written at ea and PC advanced, all else the same, unless the byte is 0xFF, which
is WidthOverflow with 0x100. The opcode bytes are the spec's decision D3 (log entry 1), the faults its D1, D7, D8 and
D11 (log entry 3). Rests on 46_inc_dec.md INC; 92_eei_decisions.md D1, D3, D7, D8, D11. -/
def Obligations.IncIncrementsMemory : Prop :=
  (∀ b m, slot b = some (.INC, m) ↔ (b, m) ∈
      [(0xE6, some .zeroPage), (0xF6, some .zeroPageX), (0xEE, some .absolute), (0xFE, some .absoluteX)]) ∧
  ∀ (i : Instr) (s : State), i.op = .INC →
    (∀ f, cycleFault i s = some f → exec i s = .fault f) ∧
    (cycleFault i s = none → ∃ ea, effectiveAddress? i s = some ea ∧
      (s.read ea ≠ 0xFF → exec i s = .next { s with
        mem := s.mem.write ea.toNat (s.read ea + 1), pc := pcAfter i s }) ∧
      (s.read ea = 0xFF → exec i s = .fault (.widthOverflow (faultSite i s) (0x100))))

/-- DEC is bound to exactly the opcode bytes and modes the spec lists (decZp, decZpX, decAbs, decAbsX). Where the cycle's
checks fail (PCOverflow, the resolver's), it faults so. Otherwise there is an effective address ea, and exec answers
the state with the byte at ea minus 1 written at ea and PC advanced, all else the same, unless the byte is 0x00,
which is WidthOverflow with -1. The opcode bytes are the spec's decision D3 (log entry 1), the faults its D1, D7, D8
and D11 (log entry 3). Rests on 46_inc_dec.md DEC; 92_eei_decisions.md D1, D3, D7, D8, D11. -/
def Obligations.DecDecrementsMemory : Prop :=
  (∀ b m, slot b = some (.DEC, m) ↔ (b, m) ∈
      [(0xC6, some .zeroPage), (0xD6, some .zeroPageX), (0xCE, some .absolute), (0xDE, some .absoluteX)]) ∧
  ∀ (i : Instr) (s : State), i.op = .DEC →
    (∀ f, cycleFault i s = some f → exec i s = .fault f) ∧
    (cycleFault i s = none → ∃ ea, effectiveAddress? i s = some ea ∧
      (s.read ea ≠ 0x00 → exec i s = .next { s with
        mem := s.mem.write ea.toNat (s.read ea - 1), pc := pcAfter i s }) ∧
      (s.read ea = 0x00 → exec i s = .fault (.widthOverflow (faultSite i s) (-1))))

/-- inx and iny have one opcode byte each. With PC below 0xFFFF they answer the state with X + 1 in X, or Y + 1 in Y, and
PC + 1, all else the same, unless the register is 0xFF, which is WidthOverflow with 0x100; at PC = 0xFFFF they are
PCOverflow. The opcode bytes are the spec's decision D3 (log entry 1), the faults its D1 and D11 (log entry 3). Rests
on 46_inc_dec.md INX, INY; 92_eei_decisions.md D1, D3, D11. -/
def Obligations.InxInyIncrementWithoutWrap : Prop :=
  (∀ b m, slot b = some (.INX, m) ↔ b = 0xE8 ∧ m = none) ∧ (∀ b m, slot b = some (.INY, m) ↔ b = 0xC8 ∧ m = none) ∧
  ∀ s : State,
    (s.pc.toNat + 1 ≤ 0xFFFF →
      (s.x ≠ 0xFF → exec .inx s = .next { s with x := s.x + 1, pc := BitVec.ofNat 16 (s.pc.toNat + 1) }) ∧
      (s.x = 0xFF → exec .inx s = .fault (.widthOverflow ⟨s.pc, 0xE8⟩ 0x100)) ∧
      (s.y ≠ 0xFF → exec .iny s = .next { s with y := s.y + 1, pc := BitVec.ofNat 16 (s.pc.toNat + 1) }) ∧
      (s.y = 0xFF → exec .iny s = .fault (.widthOverflow ⟨s.pc, 0xC8⟩ 0x100))) ∧
    (0xFFFF < s.pc.toNat + 1 →
      exec .inx s = .fault (.pcOverflow ⟨s.pc, 0xE8⟩) ∧ exec .iny s = .fault (.pcOverflow ⟨s.pc, 0xC8⟩))

/-- dex and dey have one opcode byte each. With PC below 0xFFFF they answer the state with X - 1 mod 0x100 in X, or Y - 1
mod 0x100 in Y, and PC + 1, all else the same, with no fault of their own. The opcode bytes are the spec's decision
D3 (log entry 1). Formalises R284, R285. -/
def Obligations.DexDeyDecrementAndWrap : Prop :=
  (∀ b m, slot b = some (.DEX, m) ↔ b = 0xCA ∧ m = none) ∧ (∀ b m, slot b = some (.DEY, m) ↔ b = 0x88 ∧ m = none) ∧
  ∀ s : State,
    (s.pc.toNat + 1 ≤ 0xFFFF →
      exec .dex s = .next { s with
        x := BitVec.ofNat 8 ((s.x.toNat + 0xFF) % 0x100), pc := BitVec.ofNat 16 (s.pc.toNat + 1) } ∧
      exec .dey s = .next { s with
        y := BitVec.ofNat 8 ((s.y.toNat + 0xFF) % 0x100), pc := BitVec.ofNat 16 (s.pc.toNat + 1) })

/-- pha has one opcode byte. With PC below 0xFFFF it answers the state with A written at 0x0100 + SP, SP - 1 and PC + 1,
all else the same, unless SP is 0x00, which is StackOverflow with SP; at PC = 0xFFFF it is PCOverflow. The opcode
byte is the spec's decision D3 (log entry 1), the bound on SP its D6 and PCOverflow its D11 (log entry 3). Rests on
47_stack.md PHA and push; 92_eei_decisions.md D3, D6, D11. -/
def Obligations.PhaPushesA : Prop :=
  (∀ b m, slot b = some (.PHA, m) ↔ b = 0x48 ∧ m = none) ∧
  ∀ s : State,
    (s.pc.toNat + 1 ≤ 0xFFFF →
      (s.sp ≠ 0x00 → exec .pha s = .next { s with
        mem := s.mem.write (0x100 + s.sp.toNat) s.a, sp := s.sp - 1, pc := BitVec.ofNat 16 (s.pc.toNat + 1) }) ∧
      (s.sp = 0x00 → exec .pha s = .fault (.stackOverflow ⟨s.pc, 0x48⟩ 0x00))) ∧
    (0xFFFF < s.pc.toNat + 1 → exec .pha s = .fault (.pcOverflow ⟨s.pc, 0x48⟩))

/-- php has one opcode byte. With PC below 0xFFFF it answers the state with P, no bit forced, written at 0x0100 + SP, SP
- 1 and PC + 1, all else the same, unless SP is 0x00, which is StackOverflow with SP; at PC = 0xFFFF it is
PCOverflow. The pushed byte is the spec's decision D14 (log entry 4), the opcode byte its D3 (log entry 1), the bound
its D6 and PCOverflow its D11 (log entry 3). Rests on 47_stack.md PHP and push; 92_eei_decisions.md D3, D6, D11, D14. -/
def Obligations.PhpPushesStatusUnchanged : Prop :=
  (∀ b m, slot b = some (.PHP, m) ↔ b = 0x08 ∧ m = none) ∧
  ∀ s : State,
    (s.pc.toNat + 1 ≤ 0xFFFF →
      (s.sp ≠ 0x00 → exec .php s = .next { s with
        mem := s.mem.write (0x100 + s.sp.toNat) s.p, sp := s.sp - 1, pc := BitVec.ofNat 16 (s.pc.toNat + 1) }) ∧
      (s.sp = 0x00 → exec .php s = .fault (.stackOverflow ⟨s.pc, 0x08⟩ 0x00))) ∧
    (0xFFFF < s.pc.toNat + 1 → exec .php s = .fault (.pcOverflow ⟨s.pc, 0x08⟩))

/-- pla has one opcode byte. With PC below 0xFFFF it answers the state with the byte at 0x0100 + SP + 1 in A, SP + 1 and
PC + 1, all else the same, unless SP is 0xFF, which is StackUnderflow with SP; at PC = 0xFFFF it is PCOverflow. The
opcode byte is the spec's decision D3 (log entry 1), the bound on SP its D6 and PCOverflow its D11 (log entry 3).
Rests on 47_stack.md PLA and pop; 92_eei_decisions.md D3, D6, D11. -/
def Obligations.PlaPullsA : Prop :=
  (∀ b m, slot b = some (.PLA, m) ↔ b = 0x68 ∧ m = none) ∧
  ∀ s : State,
    (s.pc.toNat + 1 ≤ 0xFFFF →
      (s.sp ≠ 0xFF → exec .pla s = .next { s with
        a := s.mem.read (0x100 + s.sp.toNat + 1), sp := s.sp + 1, pc := BitVec.ofNat 16 (s.pc.toNat + 1) }) ∧
      (s.sp = 0xFF → exec .pla s = .fault (.stackUnderflow ⟨s.pc, 0x68⟩ 0xFF))) ∧
    (0xFFFF < s.pc.toNat + 1 → exec .pla s = .fault (.pcOverflow ⟨s.pc, 0x68⟩))

/-- plp has one opcode byte. With PC below 0xFFFF it answers the state with the byte at 0x0100 + SP + 1 in P, SP + 1 and
PC + 1, all else the same, unless SP is 0xFF, which is StackUnderflow with SP; at PC = 0xFFFF it is PCOverflow. That
all 8 bits are written is the spec's decision D14 (log entry 4), the opcode byte its D3 (log entry 1), the bound its
D6 and PCOverflow its D11 (log entry 3). Rests on 47_stack.md PLP and pop; 92_eei_decisions.md D3, D6, D11, D14. -/
def Obligations.PlpPullsStatusWhole : Prop :=
  (∀ b m, slot b = some (.PLP, m) ↔ b = 0x28 ∧ m = none) ∧
  ∀ s : State,
    (s.pc.toNat + 1 ≤ 0xFFFF →
      (s.sp ≠ 0xFF → exec .plp s = .next { s with
        p := s.mem.read (0x100 + s.sp.toNat + 1), sp := s.sp + 1, pc := BitVec.ofNat 16 (s.pc.toNat + 1) }) ∧
      (s.sp = 0xFF → exec .plp s = .fault (.stackUnderflow ⟨s.pc, 0x28⟩ 0xFF))) ∧
    (0xFFFF < s.pc.toNat + 1 → exec .plp s = .fault (.pcOverflow ⟨s.pc, 0x28⟩))

/-- For every instruction with one of these operations (all 40 constructors): if exec answers next t, then X, Y, SP, P
and every byte of memory are unchanged. A is the destination, PC may change. Rests on 42_arith_logic.md Family-wide
rules. -/
def Obligations.ArithmeticAndLogicFrame : Prop :=
  ∀ (i : Instr) (s t : State), i.op ∈ [.ADC, .AND, .EOR, .ORA, .SBC] → exec i s = .next t →
    t.x = s.x ∧ t.y = s.y ∧ t.sp = s.sp ∧ t.p = s.p ∧ ∀ a : Word, t.read a = s.read a

/-- For every load (all 18 constructors): if exec answers next t, then SP, P and every byte of memory are unchanged, and
so is each of A, X, Y that the mnemonic does not name. Rests on 44_load_store.md Family-wide rules. -/
def Obligations.LoadFrame : Prop :=
  ∀ (i : Instr) (s t : State), i.op ∈ [.LDA, .LDX, .LDY] → exec i s = .next t →
    t.sp = s.sp ∧ t.p = s.p ∧ (∀ a : Word, t.read a = s.read a) ∧
    (i.op ≠ .LDA → t.a = s.a) ∧ (i.op ≠ .LDX → t.x = s.x) ∧ (i.op ≠ .LDY → t.y = s.y)

/-- For every store (all 13 constructors): if exec answers next t, then A, X, Y, SP and P are unchanged, and for the
effective address ea that the resolver gives in the state before, every other address reads as before. Rests on
44_load_store.md Family-wide rules. -/
def Obligations.StoreFrame : Prop :=
  ∀ (i : Instr) (s t : State), i.op ∈ [.STA, .STX, .STY] → exec i s = .next t →
    t.a = s.a ∧ t.x = s.x ∧ t.y = s.y ∧ t.sp = s.sp ∧ t.p = s.p ∧
    ∀ ea, effectiveAddress? i s = some ea → ∀ a : Word, a ≠ ea → t.read a = s.read a

/-- For every instruction with one of these operations and a mode (all 24 constructors): if exec answers next t, then A,
X, Y, SP and P are unchanged, and for the effective address ea that the resolver gives in the state before, every
other address reads as before. Rests on 43_shift_rotate.md Family-wide rules; 46_inc_dec.md Family-wide rules. -/
def Obligations.MemoryShiftAndIncrementFrame : Prop :=
  ∀ (i : Instr) (s t : State), i.op ∈ [.ASL, .LSR, .ROL, .ROR, .INC, .DEC] → i.mode? ≠ none → exec i s = .next t →
    t.a = s.a ∧ t.x = s.x ∧ t.y = s.y ∧ t.sp = s.sp ∧ t.p = s.p ∧
    ∀ ea, effectiveAddress? i s = some ea → ∀ a : Word, a ≠ ea → t.read a = s.read a

/-- For aslAcc, lsrAcc, rolAcc, rorAcc, inx, iny, dex, dey: if exec answers next t, then SP, P and every byte of memory
are unchanged, and so is each of A, X, Y that is not the destination; and exec in a state with any other memory
answers the same with that memory. Rests on 43_shift_rotate.md Family-wide rules; 46_inc_dec.md Family-wide rules. -/
def Obligations.RegisterFormFrame : Prop :=
  ∀ (i : Instr) (s t : State), i ∈ [.aslAcc, .lsrAcc, .rolAcc, .rorAcc, .inx, .iny, .dex, .dey] →
    (exec i s = .next t →
      t.sp = s.sp ∧ t.p = s.p ∧ (∀ a : Word, t.read a = s.read a) ∧
      (i ∉ [.aslAcc, .lsrAcc, .rolAcc, .rorAcc] → t.a = s.a) ∧ (i ∉ [.inx, .dex] → t.x = s.x) ∧
      (i ∉ [.iny, .dey] → t.y = s.y)) ∧
    ∀ m : Memory, exec i { s with mem := m } = mapNext (fun t => { t with mem := m }) (exec i s)

/-- For tax, tay, tsx, txa, txs, tya: if exec answers next t, then P and every byte of memory are unchanged, and so is
each of A, X, Y, SP that is not the destination; and exec in a state with any other memory answers the same with that
memory. Formalises R266. -/
def Obligations.TransferFrame : Prop :=
  ∀ (i : Instr) (s t : State), i ∈ [.tax, .tay, .tsx, .txa, .txs, .tya] →
    (exec i s = .next t →
      t.p = s.p ∧ (∀ a : Word, t.read a = s.read a) ∧ (i ∉ [.txa, .tya] → t.a = s.a) ∧
      (i ∉ [.tax, .tsx] → t.x = s.x) ∧ (i ≠ .tay → t.y = s.y) ∧ (i ≠ .txs → t.sp = s.sp)) ∧
    ∀ m : Memory, exec i { s with mem := m } = mapNext (fun t => { t with mem := m }) (exec i s)

/-- For pha and php: if exec answers next t, then A, X, Y and P are unchanged, and every address but 0x0100 + SP (the SP
before) reads as before. Rests on 47_stack.md section 1. -/
def Obligations.PushFrame : Prop :=
  ∀ (i : Instr) (s t : State), i ∈ [.pha, .php] → exec i s = .next t →
    t.a = s.a ∧ t.x = s.x ∧ t.y = s.y ∧ t.p = s.p ∧
    ∀ a : Word, a ≠ stackAddress s.sp → t.read a = s.read a

/-- For pla and plp: if exec answers next t, then X, Y and every byte of memory are unchanged; PLA leaves P and PLP
leaves A unchanged. Rests on 47_stack.md section 1. -/
def Obligations.PullFrame : Prop :=
  ∀ (i : Instr) (s t : State), i ∈ [.pla, .plp] → exec i s = .next t →
    t.x = s.x ∧ t.y = s.y ∧ (∀ a : Word, t.read a = s.read a) ∧ (i = .pla → t.p = s.p) ∧ (i = .plp → t.a = s.a)

/-- For every state whose memory is in its canonical form (addresses strictly rising and below 0x10000, no entry 0x00),
reached by a run or not: if the step answers next t, the memory of t is in that form. The sparse form is the model's
representation of the 65,536 cells (log entry 7). Rests on 10_state.md section 5; 20_memory.md section 1. -/
def Obligations.StepKeepsMemoryCanonical : Prop :=
  ∀ s t : State, s.Inv → step s = .next t → t.Inv

/-- The reset state satisfies the invariant that every step keeps. Rests on 70_reset_and_hazards.md section 1. -/
def Obligations.ResetMemoryIsCanonical : Prop :=
  State.reset.Inv

/-- For canonical memories m and n: if every address below 0x10000 reads the same in both, then m = n. The sparse form is
the model's representation (log entry 7). Rests on 10_state.md section 5. -/
def Obligations.CanonicalMemoryIsDeterminedByItsBytes : Prop :=
  ∀ m n : Memory, m.wf = true → n.wf = true → (∀ a, a < 0x10000 → m.read a = n.read a) → m = n

/-- The reset state has A = X = Y = P = 0x00, SP = 0xFF, PC = 0x0200, and every address reads 0x00. X, Y, P and SP are
the spec's decisions D4 and D5 (log entry 2). Rests on 70_reset_and_hazards.md section 1; 92_eei_decisions.md D4, D5. -/
def Obligations.ResetState : Prop :=
  State.reset.a = 0x00 ∧ State.reset.x = 0x00 ∧ State.reset.y = 0x00 ∧ State.reset.sp = 0xFF ∧
  State.reset.p = 0x00 ∧ State.reset.pc = 0x0200 ∧ ∀ a : Word, State.reset.read a = 0x00

/-- For every instruction and state: if exec answers next t, then no two different addresses read differently in t than
before. Rests on 20_memory.md section 4. -/
def Obligations.InstructionWritesAtMostOneByte : Prop :=
  ∀ (i : Instr) (s t : State), exec i s = .next t →
    ∀ a b : Word, t.read a ≠ s.read a → t.read b ≠ s.read b → a = b

/-- For every instruction but PLP, a next state has P unchanged. For every instruction but PHP and PLP, exec with any
other value of P answers the same with that P; PLP with any other value of P answers the same. So ADC and SBC take no
carry or decimal mode from P. That P has no fields is the spec's decision D14 (log entry 4). Rests on 10_state.md
section 4; 90_conflicts.md C4; 92_eei_decisions.md D14. -/
def Obligations.OnlyPlpWritesAndOnlyPhpReadsStatus : Prop :=
  ∀ (i : Instr) (s t : State) (v : Byte),
    (i ≠ .plp → exec i s = .next t → t.p = s.p) ∧
    (i ≠ .plp → i ≠ .php → exec i { s with p := v } = mapNext (fun t => { t with p := v }) (exec i s)) ∧
    (i = .plp → exec i { s with p := v } = exec i s)

/-- From every state with canonical memory, SP not 0x00 and room for both instructions: PHA answers a next state t, and
PLA from t with any value v put in A answers a next state with A and SP as before the PHA. Rests on 47_stack.md
section 2 (stack round trip). -/
def Obligations.PhaThenPlaRestores : Prop :=
  ∀ (s : State) (v : Byte), s.Inv → s.sp ≠ 0x00 → s.pc.toNat + 2 ≤ 0xFFFF →
    ∃ t u, exec .pha s = .next t ∧ exec .pla { t with a := v } = .next u ∧ u.a = s.a ∧ u.sp = s.sp

/-- For every halt opcode and state: if the byte at PC is the halt opcode, run halts there having executed nothing;
otherwise run is run from the next state of the tick, or ends with the tick's fault and the state before it. So the
model's bound on rounds is never felt. Formalises R170. -/
def Obligations.RunUnfoldsTickByTick : Prop :=
  ∀ (h : Byte) (s : State),
    (s.read s.pc = h → run h s = .halted s) ∧
    (s.read s.pc ≠ h → (∀ t, step s = .next t → run h s = run h t) ∧ (∀ f, step s = .fault f → run h s = .faulted s f))

/-- For every halt opcode and every state: run ends halted in a state whose byte at PC is the halt opcode, or with fault
f in a state whose byte at PC is not the halt opcode and whose tick raises f. No run is cut off or refused. Rests on
41_execution_cycle.md section 3 (the end of a run, marked derived there). -/
def Obligations.EveryRunEnds : Prop :=
  ∀ (h : Byte) (s : State),
    (∃ t, run h s = .halted t ∧ t.read t.pc = h) ∨
    (∃ t f, run h s = .faulted t f ∧ t.read t.pc ≠ h ∧ step t = .fault f)

/-- For every state with canonical memory and every ROM: up to 0xFE00 bytes, load answers a state with the same
registers, byte k of the ROM at 0x0200 + k, and every other address unchanged, memory canonical; a longer ROM is
refused with RomTooLarge. The limit is the spec's decision D18. Rests on 70_reset_and_hazards.md section 2;
92_eei_decisions.md D18. -/
def Obligations.LoadCopiesTheRom : Prop :=
  ∀ (rom : List Byte) (s : State), s.Inv →
    (rom.length ≤ 0xFE00 → ∃ t, load rom s = .ok t ∧ t = { s with mem := t.mem } ∧ t.Inv ∧
      (∀ k (hk : k < rom.length), t.mem.read (0x0200 + k) = rom[k]) ∧
      (∀ a, a < 0x0200 ∨ 0x0200 + rom.length ≤ a → t.mem.read a = s.mem.read a)) ∧
    (0xFE00 < rom.length → load rom s = .error .romTooLarge)
end

