-- ==== Sys2Proof/Laws/Assembler.lean ====
section
/-! SUPPORT. The small lemmas of the assembler's hex digits (30_encoding.md R111): what is spelled is read back, and the other
operand characters are no digits. -/

namespace Sys2Proof.Assembler

/-- Every digit that `hexChar` spells is read back. -/
theorem hexDigit_hexChar : ∀ n, n < 16 → hexDigit (hexChar n) = some n := by decide

/-- Lower-case digits have the value of the upper-case ones. -/
theorem hexDigit_lower : ['a', 'b', 'c', 'd', 'e', 'f'].map hexDigit = ['A', 'B', 'C', 'D', 'E', 'F'].map hexDigit := by decide

/-- The characters of R110 that are no digit, and the neighbours of the three runs. -/
theorem hexDigit_none :
    ['#', '$', '(', ')', ',', 'X', 'Y', '/', ':', '@', 'G', '`', 'g'].filterMap hexDigit = [] := by rfl

end Sys2Proof.Assembler
end

