-- ==== Sys2Proof/Laws/Exec.lean ====
section
/-! SUPPORT. What `exec` runs, by semantic operation: the family's shared meaning at the instruction's own opcode byte and
operand form (41_execution_cycle.md R161). Later proofs cite these and never unfold an arm. -/

namespace Sys2Proof.Machine

/-- Every instruction has one of its mnemonic's modes: it is well-formed (30_encoding.md R102). -/
theorem Instr_wellFormed (i : Instr) : i.wellFormed = true := by
  cases i <;> rfl

theorem mode?_mem_modes (i : Instr) : i.mode? ∈ i.op.modes := by
  simpa [Instr.wellFormed, Instr.form, Form.wellFormed, Instr.mode?] using Instr_wellFormed i

/-- The shared meaning of a semantic operation, or `none` for an operation that needs a mode and is given none. -/
def perform? (op : Op) (opcode : Byte) (o : Option Operand) (s : State) : Option Result :=
  match op with
  | .ADC => o.map fun o => performAdc opcode o s
  | .AND => o.map fun o => performAnd opcode o s
  | .EOR => o.map fun o => performEor opcode o s
  | .ORA => o.map fun o => performOra opcode o s
  | .SBC => o.map fun o => performSbc opcode o s
  | .ASL => some (performAsl opcode o s)
  | .LSR => some (performLsr opcode o s)
  | .ROL => some (performRol opcode o s)
  | .ROR => some (performRor opcode o s)
  | .LDA => o.map fun o => performLda opcode o s
  | .LDX => o.map fun o => performLdx opcode o s
  | .LDY => o.map fun o => performLdy opcode o s
  | .STA => o.map fun o => performSta opcode o s
  | .STX => o.map fun o => performStx opcode o s
  | .STY => o.map fun o => performSty opcode o s
  | .TAX => some (performTax opcode s)
  | .TAY => some (performTay opcode s)
  | .TSX => some (performTsx opcode s)
  | .TXA => some (performTxa opcode s)
  | .TXS => some (performTxs opcode s)
  | .TYA => some (performTya opcode s)
  | .INC => o.map fun o => performInc opcode o s
  | .INX => some (performInx opcode s)
  | .INY => some (performIny opcode s)
  | .DEC => o.map fun o => performDec opcode o s
  | .DEX => some (performDex opcode s)
  | .DEY => some (performDey opcode s)
  | .PHA => some (performPha opcode s)
  | .PHP => some (performPhp opcode s)
  | .PLA => some (performPla opcode s)
  | .PLP => some (performPlp opcode s)

theorem perform?_eq_exec (i : Instr) (s : State) : perform? i.op i.opcode i.operand? s = some (exec i s) := by
  cases i <;> rfl

theorem exec_ADC (i : Instr) (s : State) (h : i.op = .ADC) :
    ∃ o, i.operand? = some o ∧ exec i s = performAdc i.opcode o s := by
  simpa [h, perform?, eq_comm] using perform?_eq_exec i s

theorem exec_AND (i : Instr) (s : State) (h : i.op = .AND) :
    ∃ o, i.operand? = some o ∧ exec i s = performAnd i.opcode o s := by
  simpa [h, perform?, eq_comm] using perform?_eq_exec i s

theorem exec_EOR (i : Instr) (s : State) (h : i.op = .EOR) :
    ∃ o, i.operand? = some o ∧ exec i s = performEor i.opcode o s := by
  simpa [h, perform?, eq_comm] using perform?_eq_exec i s

theorem exec_ORA (i : Instr) (s : State) (h : i.op = .ORA) :
    ∃ o, i.operand? = some o ∧ exec i s = performOra i.opcode o s := by
  simpa [h, perform?, eq_comm] using perform?_eq_exec i s

theorem exec_SBC (i : Instr) (s : State) (h : i.op = .SBC) :
    ∃ o, i.operand? = some o ∧ exec i s = performSbc i.opcode o s := by
  simpa [h, perform?, eq_comm] using perform?_eq_exec i s

theorem exec_ASL (i : Instr) (s : State) (h : i.op = .ASL) : exec i s = performAsl i.opcode i.operand? s := by
  simpa [h, perform?] using (perform?_eq_exec i s).symm

theorem exec_LSR (i : Instr) (s : State) (h : i.op = .LSR) : exec i s = performLsr i.opcode i.operand? s := by
  simpa [h, perform?] using (perform?_eq_exec i s).symm

theorem exec_ROL (i : Instr) (s : State) (h : i.op = .ROL) : exec i s = performRol i.opcode i.operand? s := by
  simpa [h, perform?] using (perform?_eq_exec i s).symm

theorem exec_ROR (i : Instr) (s : State) (h : i.op = .ROR) : exec i s = performRor i.opcode i.operand? s := by
  simpa [h, perform?] using (perform?_eq_exec i s).symm

theorem exec_LDA (i : Instr) (s : State) (h : i.op = .LDA) :
    ∃ o, i.operand? = some o ∧ exec i s = performLda i.opcode o s := by
  simpa [h, perform?, eq_comm] using perform?_eq_exec i s

theorem exec_LDX (i : Instr) (s : State) (h : i.op = .LDX) :
    ∃ o, i.operand? = some o ∧ exec i s = performLdx i.opcode o s := by
  simpa [h, perform?, eq_comm] using perform?_eq_exec i s

theorem exec_LDY (i : Instr) (s : State) (h : i.op = .LDY) :
    ∃ o, i.operand? = some o ∧ exec i s = performLdy i.opcode o s := by
  simpa [h, perform?, eq_comm] using perform?_eq_exec i s

theorem exec_STA (i : Instr) (s : State) (h : i.op = .STA) :
    ∃ o, i.operand? = some o ∧ exec i s = performSta i.opcode o s := by
  simpa [h, perform?, eq_comm] using perform?_eq_exec i s

theorem exec_STX (i : Instr) (s : State) (h : i.op = .STX) :
    ∃ o, i.operand? = some o ∧ exec i s = performStx i.opcode o s := by
  simpa [h, perform?, eq_comm] using perform?_eq_exec i s

theorem exec_STY (i : Instr) (s : State) (h : i.op = .STY) :
    ∃ o, i.operand? = some o ∧ exec i s = performSty i.opcode o s := by
  simpa [h, perform?, eq_comm] using perform?_eq_exec i s

theorem exec_TAX (i : Instr) (s : State) (h : i.op = .TAX) : exec i s = performTax i.opcode s := by
  simpa [h, perform?] using (perform?_eq_exec i s).symm

theorem operand?_TAX (i : Instr) (h : i.op = .TAX) : i.operand? = none := by
  simpa [h, Op.modes, Instr.mode?] using mode?_mem_modes i

theorem exec_TAY (i : Instr) (s : State) (h : i.op = .TAY) : exec i s = performTay i.opcode s := by
  simpa [h, perform?] using (perform?_eq_exec i s).symm

theorem operand?_TAY (i : Instr) (h : i.op = .TAY) : i.operand? = none := by
  simpa [h, Op.modes, Instr.mode?] using mode?_mem_modes i

theorem exec_TSX (i : Instr) (s : State) (h : i.op = .TSX) : exec i s = performTsx i.opcode s := by
  simpa [h, perform?] using (perform?_eq_exec i s).symm

theorem operand?_TSX (i : Instr) (h : i.op = .TSX) : i.operand? = none := by
  simpa [h, Op.modes, Instr.mode?] using mode?_mem_modes i

theorem exec_TXA (i : Instr) (s : State) (h : i.op = .TXA) : exec i s = performTxa i.opcode s := by
  simpa [h, perform?] using (perform?_eq_exec i s).symm

theorem operand?_TXA (i : Instr) (h : i.op = .TXA) : i.operand? = none := by
  simpa [h, Op.modes, Instr.mode?] using mode?_mem_modes i

theorem exec_TXS (i : Instr) (s : State) (h : i.op = .TXS) : exec i s = performTxs i.opcode s := by
  simpa [h, perform?] using (perform?_eq_exec i s).symm

theorem operand?_TXS (i : Instr) (h : i.op = .TXS) : i.operand? = none := by
  simpa [h, Op.modes, Instr.mode?] using mode?_mem_modes i

theorem exec_TYA (i : Instr) (s : State) (h : i.op = .TYA) : exec i s = performTya i.opcode s := by
  simpa [h, perform?] using (perform?_eq_exec i s).symm

theorem operand?_TYA (i : Instr) (h : i.op = .TYA) : i.operand? = none := by
  simpa [h, Op.modes, Instr.mode?] using mode?_mem_modes i

theorem exec_INC (i : Instr) (s : State) (h : i.op = .INC) :
    ∃ o, i.operand? = some o ∧ exec i s = performInc i.opcode o s := by
  simpa [h, perform?, eq_comm] using perform?_eq_exec i s

theorem exec_INX (i : Instr) (s : State) (h : i.op = .INX) : exec i s = performInx i.opcode s := by
  simpa [h, perform?] using (perform?_eq_exec i s).symm

theorem operand?_INX (i : Instr) (h : i.op = .INX) : i.operand? = none := by
  simpa [h, Op.modes, Instr.mode?] using mode?_mem_modes i

theorem exec_INY (i : Instr) (s : State) (h : i.op = .INY) : exec i s = performIny i.opcode s := by
  simpa [h, perform?] using (perform?_eq_exec i s).symm

theorem operand?_INY (i : Instr) (h : i.op = .INY) : i.operand? = none := by
  simpa [h, Op.modes, Instr.mode?] using mode?_mem_modes i

theorem exec_DEC (i : Instr) (s : State) (h : i.op = .DEC) :
    ∃ o, i.operand? = some o ∧ exec i s = performDec i.opcode o s := by
  simpa [h, perform?, eq_comm] using perform?_eq_exec i s

theorem exec_DEX (i : Instr) (s : State) (h : i.op = .DEX) : exec i s = performDex i.opcode s := by
  simpa [h, perform?] using (perform?_eq_exec i s).symm

theorem operand?_DEX (i : Instr) (h : i.op = .DEX) : i.operand? = none := by
  simpa [h, Op.modes, Instr.mode?] using mode?_mem_modes i

theorem exec_DEY (i : Instr) (s : State) (h : i.op = .DEY) : exec i s = performDey i.opcode s := by
  simpa [h, perform?] using (perform?_eq_exec i s).symm

theorem operand?_DEY (i : Instr) (h : i.op = .DEY) : i.operand? = none := by
  simpa [h, Op.modes, Instr.mode?] using mode?_mem_modes i

theorem exec_PHA (i : Instr) (s : State) (h : i.op = .PHA) : exec i s = performPha i.opcode s := by
  simpa [h, perform?] using (perform?_eq_exec i s).symm

theorem operand?_PHA (i : Instr) (h : i.op = .PHA) : i.operand? = none := by
  simpa [h, Op.modes, Instr.mode?] using mode?_mem_modes i

theorem exec_PHP (i : Instr) (s : State) (h : i.op = .PHP) : exec i s = performPhp i.opcode s := by
  simpa [h, perform?] using (perform?_eq_exec i s).symm

theorem operand?_PHP (i : Instr) (h : i.op = .PHP) : i.operand? = none := by
  simpa [h, Op.modes, Instr.mode?] using mode?_mem_modes i

theorem exec_PLA (i : Instr) (s : State) (h : i.op = .PLA) : exec i s = performPla i.opcode s := by
  simpa [h, perform?] using (perform?_eq_exec i s).symm

theorem operand?_PLA (i : Instr) (h : i.op = .PLA) : i.operand? = none := by
  simpa [h, Op.modes, Instr.mode?] using mode?_mem_modes i

theorem exec_PLP (i : Instr) (s : State) (h : i.op = .PLP) : exec i s = performPlp i.opcode s := by
  simpa [h, perform?] using (perform?_eq_exec i s).symm

theorem operand?_PLP (i : Instr) (h : i.op = .PLP) : i.operand? = none := by
  simpa [h, Op.modes, Instr.mode?] using mode?_mem_modes i

theorem operandWidth_eq (i : Instr) : operandWidth i.operand? = i.width := by
  unfold Instr.width Instr.mode?
  cases i.operand? <;> rfl

theorem width_of_some {i : Instr} {o : Operand} (h : i.operand? = some o) : i.width = o.width := by
  rw [← operandWidth_eq, h]; rfl

theorem width_of_none {i : Instr} (h : i.operand? = none) : i.width = 0 := by
  rw [← operandWidth_eq, h]; rfl

/-- Every instruction runs in the shared cycle, at its own site and width (41_execution_cycle.md R168). So what `complete` can
do is all that any instruction can do to PC and as an outcome. -/
theorem exec_eq_complete (i : Instr) (s : State) :
    ∃ body, exec i s = complete (siteOf i.opcode s) i.width s body := by
  cases h : i.op with
  | ADC => obtain ⟨o, ho, he⟩ := exec_ADC i s h; rw [he, width_of_some ho, performAdc]; exact ⟨_, rfl⟩
  | AND => obtain ⟨o, ho, he⟩ := exec_AND i s h; rw [he, width_of_some ho, performAnd]; exact ⟨_, rfl⟩
  | EOR => obtain ⟨o, ho, he⟩ := exec_EOR i s h; rw [he, width_of_some ho, performEor]; exact ⟨_, rfl⟩
  | ORA => obtain ⟨o, ho, he⟩ := exec_ORA i s h; rw [he, width_of_some ho, performOra]; exact ⟨_, rfl⟩
  | SBC => obtain ⟨o, ho, he⟩ := exec_SBC i s h; rw [he, width_of_some ho, performSbc]; exact ⟨_, rfl⟩
  | ASL => rw [exec_ASL i s h, ← operandWidth_eq, performAsl, shift]; exact ⟨_, rfl⟩
  | LSR => rw [exec_LSR i s h, ← operandWidth_eq, performLsr, shift]; exact ⟨_, rfl⟩
  | ROL => rw [exec_ROL i s h, ← operandWidth_eq, performRol, shift]; exact ⟨_, rfl⟩
  | ROR => rw [exec_ROR i s h, ← operandWidth_eq, performRor, shift]; exact ⟨_, rfl⟩
  | LDA => obtain ⟨o, ho, he⟩ := exec_LDA i s h; rw [he, width_of_some ho, performLda]; exact ⟨_, rfl⟩
  | LDX => obtain ⟨o, ho, he⟩ := exec_LDX i s h; rw [he, width_of_some ho, performLdx]; exact ⟨_, rfl⟩
  | LDY => obtain ⟨o, ho, he⟩ := exec_LDY i s h; rw [he, width_of_some ho, performLdy]; exact ⟨_, rfl⟩
  | STA => obtain ⟨o, ho, he⟩ := exec_STA i s h; rw [he, width_of_some ho, performSta, storeByte]; exact ⟨_, rfl⟩
  | STX => obtain ⟨o, ho, he⟩ := exec_STX i s h; rw [he, width_of_some ho, performStx, storeByte]; exact ⟨_, rfl⟩
  | STY => obtain ⟨o, ho, he⟩ := exec_STY i s h; rw [he, width_of_some ho, performSty, storeByte]; exact ⟨_, rfl⟩
  | TAX => rw [exec_TAX i s h, width_of_none (operand?_TAX i h), performTax]; exact ⟨_, rfl⟩
  | TAY => rw [exec_TAY i s h, width_of_none (operand?_TAY i h), performTay]; exact ⟨_, rfl⟩
  | TSX => rw [exec_TSX i s h, width_of_none (operand?_TSX i h), performTsx]; exact ⟨_, rfl⟩
  | TXA => rw [exec_TXA i s h, width_of_none (operand?_TXA i h), performTxa]; exact ⟨_, rfl⟩
  | TXS => rw [exec_TXS i s h, width_of_none (operand?_TXS i h), performTxs]; exact ⟨_, rfl⟩
  | TYA => rw [exec_TYA i s h, width_of_none (operand?_TYA i h), performTya]; exact ⟨_, rfl⟩
  | INC => obtain ⟨o, ho, he⟩ := exec_INC i s h; rw [he, width_of_some ho, performInc]; exact ⟨_, rfl⟩
  | INX => rw [exec_INX i s h, width_of_none (operand?_INX i h), performInx]; exact ⟨_, rfl⟩
  | INY => rw [exec_INY i s h, width_of_none (operand?_INY i h), performIny]; exact ⟨_, rfl⟩
  | DEC => obtain ⟨o, ho, he⟩ := exec_DEC i s h; rw [he, width_of_some ho, performDec]; exact ⟨_, rfl⟩
  | DEX => rw [exec_DEX i s h, width_of_none (operand?_DEX i h), performDex]; exact ⟨_, rfl⟩
  | DEY => rw [exec_DEY i s h, width_of_none (operand?_DEY i h), performDey]; exact ⟨_, rfl⟩
  | PHA => rw [exec_PHA i s h, width_of_none (operand?_PHA i h), performPha]; exact ⟨_, rfl⟩
  | PHP => rw [exec_PHP i s h, width_of_none (operand?_PHP i h), performPhp]; exact ⟨_, rfl⟩
  | PLA => rw [exec_PLA i s h, width_of_none (operand?_PLA i h), performPla]; exact ⟨_, rfl⟩
  | PLP => rw [exec_PLP i s h, width_of_none (operand?_PLP i h), performPlp]; exact ⟨_, rfl⟩
end Sys2Proof.Machine
end

