-- ==== Sys2Proof/Laws/Decode.lean ====
section
/-! SUPPORT. The small lemmas of the decoder and the encoder: what the operand bytes give, what a slot binds, what a decoding
is made of. -/

namespace Sys2Proof

/-- The little-endian pair as a number (R14). -/
theorem Word.ofBytes_toNat (lo hi : Byte) : (Word.ofBytes lo hi).toNat = lo.toNat + 0x100 * hi.toNat := by
  have hlo := lo.isLt
  have hhi := hi.isLt
  simp only [Word.ofBytes, BitVec.toNat_or, BitVec.toNat_shiftLeft, BitVec.toNat_setWidth]
  rw [Nat.mod_eq_of_lt (a := lo.toNat) (by omega), Nat.mod_eq_of_lt (a := hi.toNat) (by omega), Nat.shiftLeft_eq,
    Nat.mod_eq_of_lt (by omega), Nat.or_comm, Nat.mul_comm, ← Nat.two_pow_add_eq_or_of_lt (by omega : lo.toNat < 2 ^ 8)]
  omega

theorem Word.low_ofBytes (lo hi : Byte) : (Word.ofBytes lo hi).setWidth 8 = lo := by
  apply BitVec.eq_of_toNat_eq
  have hlo := lo.isLt
  rw [BitVec.toNat_setWidth, Word.ofBytes_toNat]
  omega

theorem Word.high_ofBytes (lo hi : Byte) : ((Word.ofBytes lo hi) >>> 8).setWidth 8 = hi := by
  apply BitVec.eq_of_toNat_eq
  have hlo := lo.isLt
  have hhi := hi.isLt
  rw [BitVec.toNat_setWidth, BitVec.toNat_ushiftRight, Word.ofBytes_toNat, Nat.shiftRight_eq_div_pow]
  omega

/-- A word is the little-endian pair of its own two bytes. -/
theorem Word.ofBytes_split (w : Word) : Word.ofBytes (w.setWidth 8) ((w >>> 8).setWidth 8) = w := by
  apply BitVec.eq_of_toNat_eq
  have hw := w.isLt
  rw [Word.ofBytes_toNat, BitVec.toNat_setWidth, BitVec.toNat_setWidth, BitVec.toNat_ushiftRight, Nat.shiftRight_eq_div_pow]
  omega

/-- The bytes of an operand form give it back. -/
theorem operandOfBytes_bytes (o : Operand) (rest : List Byte) :
    operandOfBytes o.mode (o.bytes ++ rest) = some (o, rest) := by
  cases o <;> simp [Operand.mode, Operand.bytes, operandOfBytes, Word.ofBytes_split]

/-- The operand bytes that give an operand are its own bytes, and it has the mode. -/
theorem operandOfBytes_eq_some {m : Mode} {bytes rest : List Byte} {o : Operand}
    (h : operandOfBytes m bytes = some (o, rest)) : o.mode = m ∧ bytes = o.bytes ++ rest := by
  unfold operandOfBytes at h
  split at h <;> simp_all <;> obtain ⟨rfl, rfl⟩ := h <;>
    simp [Operand.mode, Operand.bytes, Word.low_ofBytes, Word.high_ofBytes]

/-- Enough bytes give an operand of any mode. -/
theorem operandOfBytes_isSome {m : Mode} {bytes : List Byte} (h : m.width ≤ bytes.length) :
    ∃ r, operandOfBytes m bytes = some r := by
  match bytes with
  | [] => cases m <;> simp [Mode.width] at h
  | [b] => cases m <;> simp_all [Mode.width, operandOfBytes]
  | b :: c :: rest => cases m <;> simp [operandOfBytes]

theorem Operand.bytes_length (o : Operand) : o.bytes.length = o.width := by
  cases o <;> rfl

theorem slotOperand_eq_some {m : Option Mode} {bytes rest : List Byte} {o : Option Operand}
    (h : slotOperand m bytes = some (o, rest)) :
    o.map Operand.mode = m ∧ bytes = (o.elim [] Operand.bytes) ++ rest := by
  cases m with
  | none => simp_all [slotOperand]; obtain ⟨rfl, rfl⟩ := h; simp
  | some m =>
    simp only [slotOperand, Option.map_eq_some_iff] at h
    obtain ⟨⟨o', rest'⟩, h, e⟩ := h
    cases e
    obtain ⟨h1, h2⟩ := operandOfBytes_eq_some h
    exact ⟨by simp [h1], by simpa using h2⟩

theorem Instr.operandBytes_eq (i : Instr) : i.operandBytes = i.operand?.elim [] Operand.bytes := by
  unfold Instr.operandBytes
  cases i.operand? <;> rfl

/-- An instruction's own form gives it back. -/
theorem toInstr?_form (i : Instr) : i.form.toInstr? = some i := by
  cases i <;> rfl

/-- The instruction of a form has that form. -/
theorem form_of_toInstr? {f : Form} {i : Instr} (h : f.toInstr? = some i) : i.form = f := by
  obtain ⟨op, o⟩ := f
  cases op <;> simp only [Form.toInstr?] at h <;> split at h <;> first | (cases h; simp_all [Instr.form, Instr.op, Instr.operand?]) | cases h

theorem slot_opcode (i : Instr) : slot i.opcode = some (i.op, i.mode?) := by
  cases i <;> rfl

/-- Every row of the dispatch table, with any operand of its mode, is an instruction whose opcode byte is the row's: the two
tables of R98 and R102 agree (R103). -/
theorem row_toInstr? : ∀ r ∈ dispatchTable, ∀ o : Option Operand, o.map Operand.mode = r.mode →
    ∃ i, Form.toInstr? ⟨r.op, o⟩ = some i ∧ i.opcode = r.opcode := by
  simp only [dispatchTable, tableRow0, tableRow1, tableRow2, tableRow3, tableRow4, tableRow5, tableRow6, tableRow7,
    tableRow8, tableRow9, tableRowA, tableRowB, tableRowC, tableRowD, tableRowE, tableRowF, List.cons_append,
    List.nil_append, List.forall_mem_cons, List.not_mem_nil, false_imp_iff, implies_true, and_true]
  repeat' apply And.intro
  all_goals
    intro o ho
    rcases o with _ | o
    · first | exact ⟨_, rfl, rfl⟩ | cases ho
    · cases o <;> first | (cases ho; done) | exact ⟨_, rfl, rfl⟩

/-- A slot holds a pair just where the table has the row: no two rows share an opcode byte. -/
theorem slot_eq_some {b : Byte} {op : Op} {m : Option Mode} :
    slot b = some (op, m) ↔ ⟨b, op, m⟩ ∈ dispatchTable := by
  constructor
  · intro h
    simp only [slot, Option.map_eq_some_iff] at h
    obtain ⟨r, hr, e⟩ := h
    have hb := List.find?_some hr
    simp only [beq_iff_eq] at hb
    cases e
    rw [← hb]
    exact List.mem_of_find?_eq_some hr
  · exact (by decide +kernel : ∀ r ∈ dispatchTable, slot r.opcode = some (r.op, r.mode)) ⟨b, op, m⟩

/-- A populated slot with any operand of its mode is an instruction with that opcode byte. -/
theorem slot_toInstr? {b : Byte} {op : Op} {m : Option Mode} (h : slot b = some (op, m)) (o : Option Operand)
    (ho : o.map Operand.mode = m) : ∃ i, Form.toInstr? ⟨op, o⟩ = some i ∧ i.opcode = b :=
  row_toInstr? _ (slot_eq_some.1 h) o ho

/-- Every decoding is a populated slot, an operand of its mode, and the instruction of the pair. -/
theorem decodeFrom_eq_ok {b : Byte} {bytes rest : List Byte} {i : Instr} :
    decodeFrom b bytes = .ok (i, rest) ↔
      ∃ op m o, slot b = some (op, m) ∧ slotOperand m bytes = some (o, rest) ∧ Form.toInstr? ⟨op, o⟩ = some i := by
  unfold decodeFrom
  constructor
  · intro h
    split at h
    · cases h
    · next op m hs =>
      split at h
      · cases h
      · next o r ho =>
        split at h
        · cases h
        · next j hj => cases h; exact ⟨op, m, o, hs, ho, hj⟩
  · rintro ⟨op, m, o, hs, ho, hi⟩
    simp [hs, ho, hi]

end Sys2Proof
end

