-- ==== Sys2Proof/Laws/Memory.lean ====
section
/-! SUPPORT. The laws of memory: a read after a write, what a write leaves alone, and that every memory operation keeps the
canonical form. -/

namespace Sys2Proof.Machine

theorem Memory.read_nil (a : Nat) : Memory.read [] a = Memory.unwritten := rfl

theorem Memory.read_entry (k : Nat) (v : Byte) (rest : Memory) (a : Nat) :
    Memory.read ((k, v) :: rest) a = if k = a then v else Memory.read rest a := rfl

theorem Memory.wfFrom_entry {lo k : Nat} {v : Byte} {rest : Memory} :
    Memory.wfFrom lo ((k, v) :: rest) = true ↔
      lo ≤ k ∧ k < Config.memorySize ∧ v ≠ Memory.unwritten ∧ Memory.wfFrom (k + 1) rest = true := by
  simp [Memory.wfFrom, and_assoc]

theorem Memory.wfFrom_mono {lo lo' : Nat} {m : Memory} (h : Memory.wfFrom lo m = true) (hle : lo' ≤ lo) :
    Memory.wfFrom lo' m = true := by
  cases m with
  | nil => rfl
  | cons e rest =>
    obtain ⟨k, v⟩ := e
    rw [Memory.wfFrom_entry] at h ⊢
    exact ⟨by omega, h.2⟩

/-- Below its first address a canonical memory lists nothing. -/
theorem Memory.read_below {lo a : Nat} {m : Memory} (h : Memory.wfFrom lo m = true) (ha : a < lo) :
    Memory.read m a = Memory.unwritten := by
  induction m generalizing lo with
  | nil => rfl
  | cons e rest ih =>
    obtain ⟨k, v⟩ := e
    rw [Memory.wfFrom_entry] at h
    rw [Memory.read_entry, if_neg (by omega)]
    exact ih h.2.2.2 (by omega)

theorem Memory.read_cons_same {a : Nat} {v : Byte} {rest : Memory}
    (h : Memory.read rest a = Memory.unwritten) : Memory.read (Memory.cons a v rest) a = v := by
  unfold Memory.cons
  split
  · simp_all
  · simp [Memory.read_entry]

theorem Memory.read_cons_other {a b : Nat} (v : Byte) (rest : Memory) (h : b ≠ a) :
    Memory.read (Memory.cons a v rest) b = Memory.read rest b := by
  unfold Memory.cons
  split
  · rfl
  · rw [Memory.read_entry, if_neg (by omega)]

theorem Memory.wfFrom_cons {lo a : Nat} {rest : Memory} (v : Byte) (hlo : lo ≤ a) (ha : a < Config.memorySize)
    (h : Memory.wfFrom (a + 1) rest = true) : Memory.wfFrom lo (Memory.cons a v rest) = true := by
  unfold Memory.cons
  split
  · exact Memory.wfFrom_mono h (by omega)
  · rw [Memory.wfFrom_entry]
    exact ⟨hlo, ha, by assumption, h⟩

/-- A write leaves every other address alone, in any memory. -/
theorem Memory.read_write_other (m : Memory) {a b : Nat} (v : Byte) (h : b ≠ a) :
    Memory.read (m.write a v) b = m.read b := by
  induction m with
  | nil => exact Memory.read_cons_other v [] h
  | cons e rest ih =>
    obtain ⟨k, u⟩ := e
    simp only [Memory.write]
    split
    · exact Memory.read_cons_other v _ h
    · split
      · rw [Memory.read_cons_other v _ h, Memory.read_entry, if_neg (by omega)]
      · rw [Memory.read_entry, Memory.read_entry, ih]

/-- A read after a write to the same address gives the value written. -/
theorem Memory.read_write_same {lo : Nat} {m : Memory} (h : Memory.wfFrom lo m = true) (a : Nat) (v : Byte) :
    Memory.read (m.write a v) a = v := by
  induction m generalizing lo with
  | nil => exact Memory.read_cons_same rfl
  | cons e rest ih =>
    obtain ⟨k, u⟩ := e
    have hw := Memory.wfFrom_entry.mp h
    simp only [Memory.write]
    split
    · refine Memory.read_cons_same (Memory.read_below (lo := k) ?_ (by omega))
      exact Memory.wfFrom_entry.mpr ⟨Nat.le_refl k, hw.2⟩
    · split
      · exact Memory.read_cons_same (Memory.read_below hw.2.2.2 (by omega))
      · rw [Memory.read_entry, if_neg (by omega)]
        exact ih hw.2.2.2

/-- A write keeps the canonical form. -/
theorem Memory.wfFrom_write {lo a : Nat} {m : Memory} (v : Byte) (h : Memory.wfFrom lo m = true) (hlo : lo ≤ a)
    (ha : a < Config.memorySize) : Memory.wfFrom lo (m.write a v) = true := by
  induction m generalizing lo with
  | nil => exact Memory.wfFrom_cons v hlo ha rfl
  | cons e rest ih =>
    obtain ⟨k, u⟩ := e
    have hw := Memory.wfFrom_entry.mp h
    simp only [Memory.write]
    split
    · refine Memory.wfFrom_cons v hlo ha (Memory.wfFrom_entry.mpr ⟨by omega, hw.2⟩)
    · split
      · exact Memory.wfFrom_cons v hlo ha (Memory.wfFrom_mono hw.2.2.2 (by omega))
      · exact Memory.wfFrom_entry.mpr ⟨hw.1, hw.2.1, hw.2.2.1, ih hw.2.2.2 (by omega)⟩

theorem Memory.wf_write {m : Memory} (h : m.wf = true) {a : Nat} (ha : a < Config.memorySize) (v : Byte) :
    (m.write a v).wf = true :=
  Memory.wfFrom_write v h (Nat.zero_le a) ha

/-- Storing bytes keeps the canonical form. -/
theorem Memory.wf_store {m : Memory} (h : m.wf = true) (a : Nat) (bytes : List Byte) : (m.store a bytes).wf = true := by
  induction bytes generalizing m a with
  | nil => exact h
  | cons b rest ih =>
    simp only [Memory.store]
    split
    · exact ih (Memory.wf_write h (by assumption) b) (a + 1)
    · exact h

/-- Storing bytes from `a` on leaves every address outside them alone. -/
theorem Memory.read_store_other (m : Memory) (a b : Nat) (bytes : List Byte)
    (h : b < a ∨ a + bytes.length ≤ b) : (m.store a bytes).read b = m.read b := by
  induction bytes generalizing m a with
  | nil => rfl
  | cons c rest ih =>
    simp only [List.length_cons] at h
    simp only [Memory.store]
    split
    · rw [ih _ _ (by omega), Memory.read_write_other _ _ (by omega)]
    · rfl

/-- The bytes stored from `a` on are read back, where they lie below 0x10000. -/
theorem Memory.read_store_same {m : Memory} (h : m.wf = true) (a : Nat) (bytes : List Byte)
    (hfit : a + bytes.length ≤ Config.memorySize) (k : Nat) (hk : k < bytes.length) :
    (m.store a bytes).read (a + k) = bytes[k] := by
  induction bytes generalizing m a k with
  | nil => simp at hk
  | cons c rest ih =>
    simp only [List.length_cons] at hfit hk
    simp only [Memory.store, if_pos (show a < Config.memorySize by omega)]
    cases k with
    | zero =>
      rw [Nat.add_zero, Memory.read_store_other _ _ _ _ (by omega)]
      exact Memory.read_write_same h a c
    | succ k =>
      have := ih (Memory.wf_write h (show a < Config.memorySize by omega) c) (a + 1) (by omega) k (by omega)
      simpa [Nat.add_comm, Nat.add_left_comm] using this

/-! ## Through the state -/

@[simp] theorem State.read_write_other (s : State) {a b : Word} (v : Byte) (h : b ≠ a) : (s.write a v).read b = s.read b :=
  Memory.read_write_other _ _ fun e => h (BitVec.eq_of_toNat_eq e)

theorem State.read_write_same {s : State} (h : s.mem.wf = true) (a : Word) (v : Byte) : (s.write a v).read a = v :=
  Memory.read_write_same h _ _

theorem State.wf_write {s : State} (h : s.mem.wf = true) (a : Word) (v : Byte) : (s.write a v).mem.wf = true :=
  Memory.wf_write h (by have := a.isLt; simp only [Config.memorySize]; omega) v

end Sys2Proof.Machine
end

