-- ==== Sys2Proof/Laws/Ops.lean ====
section
/-! SUPPORT. One lemma for each shared operation that says once everything it can do: the cycle, the width check, the stack
unit, the resolver, the target of a shift. -/

namespace Sys2Proof.Machine

theorem nextPc_toNat {w : Nat} {s : State} (h : fitsMemory w s = true) : (nextPc w s).toNat = s.pc.toNat + 1 + w := by
  simp only [fitsMemory, decide_eq_true_eq] at h
  simp only [nextPc, BitVec.toNat_add, BitVec.toNat_ofNat]
  omega

/-- Every way a cycle ends in a next state: it fits, its body answers writes, and they are committed with the PC. -/
theorem complete_eq_next {site : Site} {w : Nat} {s t : State} {body : Except Fault State} :
    complete site w s body = .next t ↔
      fitsMemory w s = true ∧ ∃ u, body = .ok u ∧ t = u.setPc (nextPc w s) := by
  unfold complete raise
  split
  · next h =>
    cases body with
    | error f => exact ⟨fun e => (nomatch e), fun ⟨_, _, e, _⟩ => (nomatch e)⟩
    | ok u => exact ⟨fun e => by cases e; exact ⟨h, u, rfl, rfl⟩, fun ⟨_, _, e, e'⟩ => by cases e; rw [e']⟩
  · next h => exact ⟨fun e => (nomatch e), fun e => absurd e.1 h⟩

/-- Every way a cycle ends in a fault: PCOverflow first, then its body's. -/
theorem complete_eq_fault {site : Site} {w : Nat} {s : State} {body : Except Fault State} {f : Fault} :
    complete site w s body = .fault f ↔
      (fitsMemory w s = false ∧ f = .pcOverflow site) ∨ (fitsMemory w s = true ∧ body = .error f) := by
  unfold complete raise
  cases fitsMemory w s <;> cases body <;> simp [eq_comm]

/-- A cycle is never refused. -/
theorem complete_ne_refused {site : Site} {w : Nat} {s : State} {body : Except Fault State} {r : Refusal} :
    complete site w s body ≠ .refused r := by
  unfold complete raise
  split <;> cases body <;> simp_all

theorem fit8_eq_ok {site : Site} {v : Int} {b : Byte} :
    fit8 site v = .ok b ↔ 0 ≤ v ∧ v ≤ 0xFF ∧ b = BitVec.ofInt 8 v := by
  unfold fit8
  split
  · next h => exact ⟨fun e => by cases e; exact ⟨h.1, h.2, rfl⟩, fun e => by rw [e.2.2]⟩
  · next h => exact ⟨fun e => (nomatch e), fun e => absurd ⟨e.1, e.2.1⟩ h⟩

theorem fit8_eq_error {site : Site} {v : Int} {f : Fault} :
    fit8 site v = .error f ↔ ¬(0 ≤ v ∧ v ≤ 0xFF) ∧ f = .widthOverflow site v := by
  unfold fit8
  split
  · next h => exact ⟨fun e => (nomatch e), fun e => absurd h e.1⟩
  · next h => exact ⟨fun e => by cases e; exact ⟨h, rfl⟩, fun e => by rw [e.2]⟩

theorem checkAddress_eq_ok {site : Site} {v : Int} {ea : Word} :
    checkAddress site v = .ok ea ↔ 0 ≤ v ∧ v ≤ 0xFFFF ∧ ea = BitVec.ofInt 16 v := by
  unfold checkAddress
  split
  · next h => exact ⟨fun e => by cases e; exact ⟨h.1, h.2, rfl⟩, fun e => by rw [e.2.2]⟩
  · next h => exact ⟨fun e => (nomatch e), fun e => absurd ⟨e.1, e.2.1⟩ h⟩

theorem checkAddress_eq_error {site : Site} {v : Int} {f : Fault} :
    checkAddress site v = .error f ↔ ¬(0 ≤ v ∧ v ≤ 0xFFFF) ∧ f = .addressOverflow site v := by
  unfold checkAddress
  split
  · next h => exact ⟨fun e => (nomatch e), fun e => absurd h e.1⟩
  · next h => exact ⟨fun e => by cases e; exact ⟨h, rfl⟩, fun e => by rw [e.2]⟩

/-- Everything a push can do when it completes. -/
theorem push_eq_ok {site : Site} {v : Byte} {s t : State} :
    push site v s = .ok t ↔ s.sp ≠ 0x00 ∧ t = (s.write (stackAddress s.sp) v).setSp (s.sp - 1) := by
  unfold push
  split
  · next h => exact ⟨fun e => (nomatch e), fun e => absurd h e.1⟩
  · next h => exact ⟨fun e => by cases e; exact ⟨h, rfl⟩, fun e => by rw [e.2]⟩

/-- Everything a pop can do when it completes. -/
theorem pop_eq_ok {site : Site} {s t : State} {v : Byte} :
    pop site s = .ok (v, t) ↔
      s.sp ≠ 0xFF ∧ v = s.read (stackAddress (s.sp + 1)) ∧ t = s.setSp (s.sp + 1) := by
  unfold pop
  split
  · next h => exact ⟨fun e => (nomatch e), fun e => absurd h e.1⟩
  · next h => exact ⟨fun e => by cases e; exact ⟨h, rfl, rfl⟩, fun e => by rw [e.2.1, e.2.2]⟩

/-- The resolver faults just where, and just as, the table of R146 says. -/
theorem resolve_eq_error {site : Site} {o : Operand} {s : State} {f : Fault} :
    resolve site o s = .error f ↔ resolverFault site o s = some f := by
  cases o with
  | immediate | zeroPage | zeroPageX | zeroPageY | absolute => simp [resolve, resolverFault]
  | absoluteX w | absoluteY w =>
    simp only [resolve, resolverFault, checkAddress_eq_error]
    split <;> simp_all [eq_comm] <;> omega
  | relative b =>
    simp only [resolve, resolverFault, checkAddress_eq_error]
    split <;> simp_all [eq_comm]
    omega
  | indirect w => simp only [resolve, resolverFault]; split <;> simp_all
  | indexedIndirect b => simp only [resolve, resolverFault]; split <;> simp_all
  | indirectIndexed b =>
    simp only [resolve, resolverFault]
    split
    · simp_all
    · simp only [checkAddress_eq_error]
      split <;> simp_all [eq_comm] <;> omega

/-- Where the table of R146 has no fault, the resolver answers an address. -/
theorem resolve_isOk {site : Site} {o : Operand} {s : State} (h : resolverFault site o s = none) :
    ∃ ea, resolve site o s = .ok ea := by
  cases e : resolve site o s with
  | ok ea => exact ⟨ea, rfl⟩
  | error f => rw [resolve_eq_error] at e; simp [h] at e

theorem operandByte_of_resolve {site : Site} {o : Operand} {s : State} (h : o.mode ≠ .immediate) :
    operandByte site o s = (resolve site o s).map s.read := by
  cases o <;> simp_all [operandByte, Operand.mode] <;> cases resolve site _ s <;> rfl

theorem resolveTarget_none {site : Site} {s : State} : resolveTarget site none s = .ok .accumulator := rfl

theorem resolveTarget_some {site : Site} {o : Operand} {s : State} :
    resolveTarget site (some o) s = (resolve site o s).map .memory := by
  simp only [resolveTarget]
  cases resolve site o s <;> rfl

/-- Writing a target keeps the canonical form of memory. -/
theorem State.wf_writeTarget {s : State} (h : s.mem.wf = true) (v : Byte) (t : Target) :
    (s.writeTarget v t).mem.wf = true := by
  cases t with
  | accumulator => exact h
  | memory ea => exact State.wf_write h ea v

end Sys2Proof.Machine
end

