-- ==== Sys2Proof/Tests/Slice0.lean ====
section
/-! SUPPORT. Tests. Words are written out from 30_encoding.md R102, results come from 95_test_vectors.md (each test names
its vector). The witnesses show, for each statement with hypotheses, concrete states and operands that meet them, each
clause at a boundary of its range. -/

namespace Sys2Proof.Tests

open Sys2Proof.Machine

/-! ## Helpers -/

/-- Bytes put at addresses. -/
def put (cells : List (Nat × Byte)) (s : State) : State :=
  s.setMem (cells.foldl (fun m c => m.write c.1 c.2) s.mem)

/-- A state with an instruction's bytes at its PC. -/
def at_ (bytes : List Byte) (s : State) : State := placeInstruction bytes s

/-- The next state of a tick, where it has one. -/
def ran (s : State) : Option State :=
  match step s with
  | .next t => some t
  | .fault _ | .refused _ => none

/-- The fault record of a tick, where it faults. -/
def failed (s : State) : Option FaultRecord :=
  match step s with
  | .fault f => some f.record
  | .next _ | .refused _ => none

/-- The instruction that bytes decode to. -/
def read (bytes : List Byte) : Option Instr :=
  match decode bytes with
  | .ok (i, _) => some i
  | .error _ => none

/-- The next state of an instruction, where it has one. -/
def done (i : Instr) (s : State) : Option State :=
  match exec i s with
  | .next t => some t
  | .fault _ | .refused _ => none

/-! ## Decoding: every constructor, by the word that the map of 30_encoding.md R98 gives it -/

theorem test_decode_adc :
  read [0x61, 0x9C] = some (.adcIndX 0x9C) ∧ read [0x65, 0x9C] = some (.adcZp 0x9C) ∧
  read [0x69, 0x9C] = some (.adcImm 0x9C) ∧ read [0x6D, 0x34, 0x12] = some (.adcAbs 0x1234) ∧
  read [0x71, 0x9C] = some (.adcIndY 0x9C) ∧ read [0x75, 0x9C] = some (.adcZpX 0x9C) ∧
  read [0x79, 0x34, 0x12] = some (.adcAbsY 0x1234) ∧ read [0x7D, 0x34, 0x12] = some (.adcAbsX 0x1234) := by decide

theorem test_decode_and :
  read [0x21, 0x9C] = some (.andIndX 0x9C) ∧ read [0x25, 0x9C] = some (.andZp 0x9C) ∧
  read [0x29, 0x9C] = some (.andImm 0x9C) ∧ read [0x2D, 0x34, 0x12] = some (.andAbs 0x1234) ∧
  read [0x31, 0x9C] = some (.andIndY 0x9C) ∧ read [0x35, 0x9C] = some (.andZpX 0x9C) ∧
  read [0x39, 0x34, 0x12] = some (.andAbsY 0x1234) ∧ read [0x3D, 0x34, 0x12] = some (.andAbsX 0x1234) := by decide

theorem test_decode_eor :
  read [0x41, 0x9C] = some (.eorIndX 0x9C) ∧ read [0x45, 0x9C] = some (.eorZp 0x9C) ∧
  read [0x49, 0x9C] = some (.eorImm 0x9C) ∧ read [0x4D, 0x34, 0x12] = some (.eorAbs 0x1234) ∧
  read [0x51, 0x9C] = some (.eorIndY 0x9C) ∧ read [0x55, 0x9C] = some (.eorZpX 0x9C) ∧
  read [0x59, 0x34, 0x12] = some (.eorAbsY 0x1234) ∧ read [0x5D, 0x34, 0x12] = some (.eorAbsX 0x1234) := by decide

theorem test_decode_ora :
  read [0x01, 0x9C] = some (.oraIndX 0x9C) ∧ read [0x05, 0x9C] = some (.oraZp 0x9C) ∧
  read [0x09, 0x9C] = some (.oraImm 0x9C) ∧ read [0x0D, 0x34, 0x12] = some (.oraAbs 0x1234) ∧
  read [0x11, 0x9C] = some (.oraIndY 0x9C) ∧ read [0x15, 0x9C] = some (.oraZpX 0x9C) ∧
  read [0x19, 0x34, 0x12] = some (.oraAbsY 0x1234) ∧ read [0x1D, 0x34, 0x12] = some (.oraAbsX 0x1234) := by decide

theorem test_decode_sbc :
  read [0xE1, 0x9C] = some (.sbcIndX 0x9C) ∧ read [0xE5, 0x9C] = some (.sbcZp 0x9C) ∧
  read [0xE9, 0x9C] = some (.sbcImm 0x9C) ∧ read [0xED, 0x34, 0x12] = some (.sbcAbs 0x1234) ∧
  read [0xF1, 0x9C] = some (.sbcIndY 0x9C) ∧ read [0xF5, 0x9C] = some (.sbcZpX 0x9C) ∧
  read [0xF9, 0x34, 0x12] = some (.sbcAbsY 0x1234) ∧ read [0xFD, 0x34, 0x12] = some (.sbcAbsX 0x1234) := by decide

theorem test_decode_asl :
  read [0x06, 0x9C] = some (.aslZp 0x9C) ∧ read [0x0A] = some .aslAcc ∧
  read [0x0E, 0x34, 0x12] = some (.aslAbs 0x1234) ∧ read [0x16, 0x9C] = some (.aslZpX 0x9C) ∧
  read [0x1E, 0x34, 0x12] = some (.aslAbsX 0x1234) := by decide

theorem test_decode_lsr :
  read [0x46, 0x9C] = some (.lsrZp 0x9C) ∧ read [0x4A] = some .lsrAcc ∧
  read [0x4E, 0x34, 0x12] = some (.lsrAbs 0x1234) ∧ read [0x56, 0x9C] = some (.lsrZpX 0x9C) ∧
  read [0x5E, 0x34, 0x12] = some (.lsrAbsX 0x1234) := by decide

theorem test_decode_rol :
  read [0x26, 0x9C] = some (.rolZp 0x9C) ∧ read [0x2A] = some .rolAcc ∧
  read [0x2E, 0x34, 0x12] = some (.rolAbs 0x1234) ∧ read [0x36, 0x9C] = some (.rolZpX 0x9C) ∧
  read [0x3E, 0x34, 0x12] = some (.rolAbsX 0x1234) := by decide

theorem test_decode_ror :
  read [0x66, 0x9C] = some (.rorZp 0x9C) ∧ read [0x6A] = some .rorAcc ∧
  read [0x6E, 0x34, 0x12] = some (.rorAbs 0x1234) ∧ read [0x76, 0x9C] = some (.rorZpX 0x9C) ∧
  read [0x7E, 0x34, 0x12] = some (.rorAbsX 0x1234) := by decide

theorem test_decode_lda :
  read [0xA1, 0x9C] = some (.ldaIndX 0x9C) ∧ read [0xA5, 0x9C] = some (.ldaZp 0x9C) ∧
  read [0xA9, 0x9C] = some (.ldaImm 0x9C) ∧ read [0xAD, 0x34, 0x12] = some (.ldaAbs 0x1234) ∧
  read [0xB1, 0x9C] = some (.ldaIndY 0x9C) ∧ read [0xB5, 0x9C] = some (.ldaZpX 0x9C) ∧
  read [0xB9, 0x34, 0x12] = some (.ldaAbsY 0x1234) ∧ read [0xBD, 0x34, 0x12] = some (.ldaAbsX 0x1234) := by decide

theorem test_decode_ldx :
  read [0xA2, 0x9C] = some (.ldxImm 0x9C) ∧ read [0xA6, 0x9C] = some (.ldxZp 0x9C) ∧
  read [0xAE, 0x34, 0x12] = some (.ldxAbs 0x1234) ∧ read [0xB6, 0x9C] = some (.ldxZpY 0x9C) ∧
  read [0xBE, 0x34, 0x12] = some (.ldxAbsY 0x1234) := by decide

theorem test_decode_ldy :
  read [0xA0, 0x9C] = some (.ldyImm 0x9C) ∧ read [0xA4, 0x9C] = some (.ldyZp 0x9C) ∧
  read [0xAC, 0x34, 0x12] = some (.ldyAbs 0x1234) ∧ read [0xB4, 0x9C] = some (.ldyZpX 0x9C) ∧
  read [0xBC, 0x34, 0x12] = some (.ldyAbsX 0x1234) := by decide

theorem test_decode_sta :
  read [0x81, 0x9C] = some (.staIndX 0x9C) ∧ read [0x85, 0x9C] = some (.staZp 0x9C) ∧
  read [0x8D, 0x34, 0x12] = some (.staAbs 0x1234) ∧ read [0x91, 0x9C] = some (.staIndY 0x9C) ∧
  read [0x95, 0x9C] = some (.staZpX 0x9C) ∧ read [0x99, 0x34, 0x12] = some (.staAbsY 0x1234) ∧
  read [0x9D, 0x34, 0x12] = some (.staAbsX 0x1234) := by decide

theorem test_decode_stx :
  read [0x86, 0x9C] = some (.stxZp 0x9C) ∧ read [0x8E, 0x34, 0x12] = some (.stxAbs 0x1234) ∧
  read [0x96, 0x9C] = some (.stxZpY 0x9C) := by decide

theorem test_decode_sty :
  read [0x84, 0x9C] = some (.styZp 0x9C) ∧ read [0x8C, 0x34, 0x12] = some (.styAbs 0x1234) ∧
  read [0x94, 0x9C] = some (.styZpX 0x9C) := by decide

theorem test_decode_transfer :
  read [0x8A] = some .txa ∧ read [0x98] = some .tya ∧ read [0x9A] = some .txs ∧ read [0xA8] = some .tay ∧
  read [0xAA] = some .tax ∧ read [0xBA] = some .tsx := by decide

theorem test_decode_increment :
  read [0x88] = some .dey ∧ read [0xC6, 0x9C] = some (.decZp 0x9C) ∧ read [0xC8] = some .iny ∧
  read [0xCA] = some .dex ∧ read [0xCE, 0x34, 0x12] = some (.decAbs 0x1234) ∧
  read [0xD6, 0x9C] = some (.decZpX 0x9C) ∧ read [0xDE, 0x34, 0x12] = some (.decAbsX 0x1234) ∧
  read [0xE6, 0x9C] = some (.incZp 0x9C) ∧ read [0xE8] = some .inx ∧
  read [0xEE, 0x34, 0x12] = some (.incAbs 0x1234) ∧ read [0xF6, 0x9C] = some (.incZpX 0x9C) ∧
  read [0xFE, 0x34, 0x12] = some (.incAbsX 0x1234) := by decide

theorem test_decode_stack :
  read [0x08] = some .php ∧ read [0x28] = some .plp ∧ read [0x48] = some .pha ∧ read [0x68] = some .pla := by decide

/-- R97, R93, R94: one byte of each family written out in bits, operand bytes at their extremes, low byte first. -/
theorem test_decode_bits :
  read [0b01101001, 0b00100011] = some (.adcImm 0x23) ∧ read [0b01101110, 0x00, 0xFF] = some (.rorAbs 0xFF00) ∧
  read [0b10110001, 0xFF] = some (.ldaIndY 0xFF) ∧ read [0b10011010] = some .txs ∧
  read [0b11011110, 0xFF, 0x00] = some (.decAbsX 0x00FF) ∧ read [0b00101000] = some .plp := by decide

/-- R99: empty slots, and a populated slot with bytes lacking. -/
theorem test_decode_refuses :
  decode [] = .error .noBytes ∧ decode [0x4C, 0x00, 0x02] = .error (.emptySlot 0x4C) ∧
  decode [0x00] = .error (.emptySlot 0x00) ∧ decode [0xEA] = .error (.emptySlot 0xEA) ∧
  decode [0xAD, 0x34] = .error (.truncated 0xAD) := ⟨rfl, rfl, rfl, rfl, rfl⟩

/-- The host's numbering: bit 0 is the least significant bit of the first byte, bits from nbits on are 0. -/
theorem test_decodeTableWord :
  decodeTableWord 16 0x2369 = some (.adcImm 0x23) ∧ decodeTableWord 24 0x1234FD = some (.sbcAbsX 0x1234) ∧
  decodeTableWord 8 0xFFE8 = some .inx ∧ decodeTableWord 8 0xAD = some (.ldaAbs 0x0000) ∧
  decodeTableWord 8 0x4C = none := by decide

/-- withFetchWord puts a word where the very next step fetches it. -/
theorem test_withFetchWord :
  ran (State.reset.withFetchWord 16 0x2369) = done (.adcImm 0x23) (State.reset.withFetchWord 16 0x2369) ∧
  (ran (State.reset.withFetchWord 16 0x2369)).map (fun t => (t.a, t.pc)) = some (0x23, 0x0202) ∧
  (ran (State.reset.withFetchWord 8 0xE8)).map (fun t => (t.x, t.pc)) = some (0x01, 0x0201) := by decide

/-! ## Well-formedness: forms that are no instruction are refused (30_encoding.md R102, R103) -/

theorem test_wellFormed_refuses_mode :
  (⟨.STA, some (.immediate 0x10)⟩ : Form).wellFormed = false ∧ (⟨.LDX, some (.zeroPageX 0x10)⟩ : Form).wellFormed = false ∧
  (⟨.STX, some (.absoluteY 0x0400)⟩ : Form).wellFormed = false ∧
  (⟨.ROL, some (.immediate 0x01)⟩ : Form).wellFormed = false := by decide

theorem test_wellFormed_refuses_unbound_mode :
  (⟨.LDA, some (.indirect 0x1234)⟩ : Form).wellFormed = false ∧
  (⟨.LDA, some (.relative 0x10)⟩ : Form).wellFormed = false := by decide

theorem test_wellFormed_refuses_missing_operand :
  (⟨.ADC, none⟩ : Form).wellFormed = false ∧ (⟨.INC, none⟩ : Form).wellFormed = false := by decide

theorem test_wellFormed_refuses_operand :
  (⟨.TAX, some (.zeroPage 0x10)⟩ : Form).wellFormed = false ∧ (⟨.PHA, some (.immediate 0x00)⟩ : Form).wellFormed = false := by
  decide

theorem test_wellFormed_accepts :
  (⟨.ASL, none⟩ : Form).wellFormed = true ∧ (⟨.LDX, some (.zeroPageY 0xFF)⟩ : Form).wellFormed = true := by decide

theorem test_toInstr_refuses :
  Form.toInstr? ⟨.STA, some (.immediate 0x10)⟩ = none ∧ Form.toInstr? ⟨.TAX, some (.zeroPage 0x10)⟩ = none := by decide

/-! ## Addressing modes: vectors V2 -/

/-- V2.1: LDA #$5A -/
theorem test_V2_1_LDA :
  let s := at_ [0xA9, 0x5A] State.reset
  ran s = some { s with a := 0x5A, pc := 0x0202 } := by decide

/-- V2.2: LDA $80 -/
theorem test_V2_2_LDA :
  let s := at_ [0xA5, 0x80] (put [(0x0080, 0x11)] State.reset)
  ran s = some { s with a := 0x11, pc := 0x0202 } := by decide

/-- V2.4: LDA $FF,X -/
theorem test_V2_4_LDA :
  let s := at_ [0xB5, 0xFF] (put [(0x0001, 0x33), (0x0101, 0x99)] { State.reset with x := 0x02 })
  ran s = some { s with a := 0x33, pc := 0x0202 } := by decide

/-- V2.5: LDX $F0,Y -/
theorem test_V2_5_LDX :
  let s := at_ [0xB6, 0xF0] (put [(0x0010, 0x44)] { State.reset with y := 0x20 })
  ran s = some { s with x := 0x44, pc := 0x0202 } := by decide

/-- V2.6: LDA $1234 -/
theorem test_V2_6_LDA :
  let s := at_ [0xAD, 0x34, 0x12] (put [(0x1234, 0x55)] State.reset)
  ran s = some { s with a := 0x55, pc := 0x0203 } := by decide

/-- V2.8: LDA $FFFF,X -/
theorem test_V2_8_LDA :
  failed (at_ [0xBD, 0xFF, 0xFF] { State.reset with x := 0x01 }) =
    some ⟨3, 0x0200, 0xBD, some 0x10000⟩ := by decide

/-- V2.9: LDA $FFF0,Y -/
theorem test_V2_9_LDA :
  let s := at_ [0xB9, 0xF0, 0xFF] (put [(0xFFFF, 0x77)] { State.reset with y := 0x0F })
  ran s = some { s with a := 0x77, pc := 0x0203 } := by decide

/-- V2.10: LDA $FFF0,Y -/
theorem test_V2_10_LDA :
  failed (at_ [0xB9, 0xF0, 0xFF] { State.reset with y := 0x10 }) =
    some ⟨3, 0x0200, 0xB9, some 0x10000⟩ := by decide

/-- V2.12: LDA ($FE,X) -/
theorem test_V2_12_LDA :
  let s := at_ [0xA1, 0xFE] (put [(0x00FE, 0x10), (0x00FF, 0x30), (0x3010, 0x99)] State.reset)
  ran s = some { s with a := 0x99, pc := 0x0202 } := by decide

/-- V2.14: LDA ($F0,X) -/
theorem test_V2_14_LDA :
  failed (at_ [0xA1, 0xF0] { State.reset with x := 0x20 }) =
    some ⟨4, 0x0200, 0xA1, some 0x110⟩ := by decide

/-- V2.16: LDA ($FE),Y -/
theorem test_V2_16_LDA :
  let s := at_ [0xB1, 0xFE] (put [(0x00FE, 0xFF), (0x00FF, 0x20), (0x2100, 0xCD)] { State.reset with y := 0x01 })
  ran s = some { s with a := 0xCD, pc := 0x0202 } := by decide

/-- V2.17: LDA ($FF),Y -/
theorem test_V2_17_LDA :
  failed (at_ [0xB1, 0xFF] State.reset) =
    some ⟨4, 0x0200, 0xB1, some 0x100⟩ := by decide

/-! ## Fetch, decode and fault order: vectors V3 -/

/-- V3.1: (byte 0x4C) -/
theorem test_V3_1_empty_slot :
  failed (at_ [0x4C, 0x00, 0x00] State.reset) =
    some ⟨1, 0x0200, 0x4C, none⟩ := by decide

/-- V3.4: INX -/
theorem test_V3_4_INX :
  failed (at_ [0xE8] { State.reset with pc := 0xFFFF }) =
    some ⟨2, 0xFFFF, 0xE8, none⟩ := by decide

/-- V3.5: LDA $1234 -/
theorem test_V3_5_LDA :
  failed (at_ [0xAD] { State.reset with pc := 0xFFFE }) =
    some ⟨2, 0xFFFE, 0xAD, none⟩ := by decide

/-- V3.6: (byte 0xFF) -/
theorem test_V3_6_empty_slot :
  failed (at_ [0xFF] { State.reset with pc := 0xFFFF }) =
    some ⟨1, 0xFFFF, 0xFF, none⟩ := by decide

/-- V3.7: LDA $FFFF,X -/
theorem test_V3_7_LDA :
  failed (at_ [0xBD] { State.reset with pc := 0xFFFE, x := 0x01 }) =
    some ⟨2, 0xFFFE, 0xBD, none⟩ := by decide

/-! ## Arithmetic and logic: vectors V4 -/

/-- V4.2: ADC #$01 -/
theorem test_V4_2_ADC :
  failed (at_ [0x69, 0x01] { State.reset with a := 0xFF }) =
    some ⟨7, 0x0200, 0x69, some 0x100⟩ := by decide

/-- V4.3: ADC $10 -/
theorem test_V4_3_ADC :
  failed (at_ [0x65, 0x10] (put [(0x0010, 0x80)] { State.reset with a := 0x80 })) =
    some ⟨7, 0x0200, 0x65, some 0x100⟩ := by decide

/-- V4.4: SBC #$30 -/
theorem test_V4_4_SBC :
  let s := at_ [0xE9, 0x30] { State.reset with a := 0x30 }
  ran s = some { s with a := 0x00, pc := 0x0202 } := by decide

/-- V4.5: SBC #$01 -/
theorem test_V4_5_SBC :
  failed (at_ [0xE9, 0x01] { State.reset with a := 0x00 }) =
    some ⟨7, 0x0200, 0xE9, some (-0x1)⟩ := by decide

/-- V4.6: SBC $1234,X -/
theorem test_V4_6_SBC :
  let s := at_ [0xFD, 0x34, 0x12] (put [(0x1235, 0x20)] { State.reset with a := 0x50, x := 0x01 })
  ran s = some { s with a := 0x30, pc := 0x0203 } := by decide

/-- V4.7: AND #$3C -/
theorem test_V4_7_AND :
  let s := at_ [0x29, 0x3C] { State.reset with a := 0xF0 }
  ran s = some { s with a := 0x30, pc := 0x0202 } := by decide

/-- V4.10: EOR $20 -/
theorem test_V4_10_EOR :
  let s := at_ [0x45, 0x20] (put [(0x0020, 0x5A)] { State.reset with a := 0x5A })
  ran s = some { s with a := 0x00, pc := 0x0202 } := by decide

/-- V4.11: ORA #$3C -/
theorem test_V4_11_ORA :
  let s := at_ [0x09, 0x3C] { State.reset with a := 0xF0 }
  ran s = some { s with a := 0xFC, pc := 0x0202 } := by decide

/-- V4.12: ORA ($20),Y -/
theorem test_V4_12_ORA :
  let s := at_ [0x11, 0x20] (put [(0x0020, 0x00), (0x0021, 0x40), (0x4002, 0x80)] { State.reset with a := 0x01, y := 0x02 })
  ran s = some { s with a := 0x81, pc := 0x0202 } := by decide

/-- V4.13: ADC #$05 -/
theorem test_V4_13_ADC :
  let s := at_ [0x69, 0x05] { State.reset with a := 0x01, p := 0xFF }
  ran s = some { s with a := 0x06, pc := 0x0202 } := by decide

/-! ## Shifts and rotates: vectors V5 -/

/-- V5.2: ASL -/
theorem test_V5_2_ASL :
  let s := at_ [0x0A] { State.reset with a := 0x7F }
  ran s = some { s with a := 0xFE, pc := 0x0201 } := by decide

/-- V5.3: ASL -/
theorem test_V5_3_ASL :
  failed (at_ [0x0A] { State.reset with a := 0x80 }) =
    some ⟨7, 0x0200, 0x0A, some 0x100⟩ := by decide

/-- V5.4: ASL $10 -/
theorem test_V5_4_ASL :
  let s := at_ [0x06, 0x10] (put [(0x0010, 0x40)] State.reset)
  ran s = some { put [(0x0010, 0x80)] s with pc := 0x0202 } := by decide

/-- V5.7: LSR $10 -/
theorem test_V5_7_LSR :
  let s := at_ [0x46, 0x10] (put [(0x0010, 0x81)] State.reset)
  ran s = some { put [(0x0010, 0x40)] s with pc := 0x0202 } := by decide

/-- V5.8: ROL -/
theorem test_V5_8_ROL :
  let s := at_ [0x2A] { State.reset with a := 0x81 }
  ran s = some { s with a := 0x03, pc := 0x0201 } := by decide

/-- V5.9: ROL $10,X -/
theorem test_V5_9_ROL :
  let s := at_ [0x36, 0x10] (put [(0x0011, 0x80)] { State.reset with x := 0x01 })
  ran s = some { put [(0x0011, 0x01)] s with pc := 0x0202 } := by decide

/-- V5.10: ROR -/
theorem test_V5_10_ROR :
  let s := at_ [0x6A] { State.reset with a := 0x01 }
  ran s = some { s with a := 0x80, pc := 0x0201 } := by decide

/-- V5.11: ROR $0300 -/
theorem test_V5_11_ROR :
  let s := at_ [0x6E, 0x00, 0x03] (put [(0x0300, 0x03)] State.reset)
  ran s = some { put [(0x0300, 0x81)] s with pc := 0x0203 } := by decide

/-! ## Loads and stores: vectors V6 -/

/-- V6.3: LDX $1000,Y -/
theorem test_V6_3_LDX :
  let s := at_ [0xBE, 0x00, 0x10] (put [(0x1003, 0x9C)] { State.reset with y := 0x03 })
  ran s = some { s with x := 0x9C, pc := 0x0203 } := by decide

/-- V6.4: LDY $30,X -/
theorem test_V6_4_LDY :
  let s := at_ [0xB4, 0x30] (put [(0x0031, 0x42)] { State.reset with x := 0x01 })
  ran s = some { s with y := 0x42, pc := 0x0202 } := by decide

/-- V6.5: LDY $1000,X -/
theorem test_V6_5_LDY :
  let s := at_ [0xBC, 0x00, 0x10] (put [(0x10FF, 0x24)] { State.reset with x := 0xFF })
  ran s = some { s with y := 0x24, pc := 0x0203 } := by decide

/-- V6.7: STA ($20),Y -/
theorem test_V6_7_STA :
  let s := at_ [0x91, 0x20] (put [(0x0020, 0x00), (0x0021, 0x44)] { State.reset with a := 0x5C, y := 0x04 })
  ran s = some { put [(0x4404, 0x5C)] s with pc := 0x0202 } := by decide

/-- V6.8: STA $FFFF,Y -/
theorem test_V6_8_STA :
  failed (at_ [0x99, 0xFF, 0xFF] { State.reset with a := 0x01, y := 0x01 }) =
    some ⟨3, 0x0200, 0x99, some 0x10000⟩ := by decide

/-- V6.9: STX $F0,Y -/
theorem test_V6_9_STX :
  let s := at_ [0x96, 0xF0] { State.reset with x := 0x77, y := 0x20 }
  ran s = some { put [(0x0010, 0x77)] s with pc := 0x0202 } := by decide

/-- V6.10: STX $0400 -/
theorem test_V6_10_STX :
  let s := at_ [0x8E, 0x00, 0x04] { State.reset with x := 0x12 }
  ran s = some { put [(0x0400, 0x12)] s with pc := 0x0203 } := by decide

/-- V6.11: STY $F8,X -/
theorem test_V6_11_STY :
  let s := at_ [0x94, 0xF8] { State.reset with y := 0x34, x := 0x10 }
  ran s = some { put [(0x0008, 0x34)] s with pc := 0x0202 } := by decide

/-- V6.13: STA $0200 -/
theorem test_V6_13_STA :
  let s := at_ [0x8D, 0x00, 0x02] { State.reset with a := 0xE8 }
  ran s = some { put [(0x0200, 0xE8)] s with pc := 0x0203 } := by decide

/-! ## Transfers: vectors V7 -/

/-- V7.1: TAX -/
theorem test_V7_1_TAX :
  let s := at_ [0xAA] { State.reset with a := 0x80, x := 0x01 }
  ran s = some { s with x := 0x80, pc := 0x0201 } := by decide

/-- V7.2: TAY -/
theorem test_V7_2_TAY :
  let s := at_ [0xA8] { State.reset with a := 0x00, y := 0x33 }
  ran s = some { s with y := 0x00, pc := 0x0201 } := by decide

/-- V7.3: TSX -/
theorem test_V7_3_TSX :
  let s := at_ [0xBA] State.reset
  ran s = some { s with x := 0xFF, pc := 0x0201 } := by decide

/-- V7.4: TXA -/
theorem test_V7_4_TXA :
  let s := at_ [0x8A] { State.reset with x := 0xFE }
  ran s = some { s with a := 0xFE, pc := 0x0201 } := by decide

/-- V7.5: TXS -/
theorem test_V7_5_TXS :
  let s := at_ [0x9A] { State.reset with x := 0x00 }
  ran s = some { s with sp := 0x00, pc := 0x0201 } := by decide

/-- V7.6: TYA -/
theorem test_V7_6_TYA :
  let s := at_ [0x98] { State.reset with y := 0x7F, a := 0x01 }
  ran s = some { s with a := 0x7F, pc := 0x0201 } := by decide

/-! ## Increments and decrements: vectors V8 -/

/-- V8.1: INC $10 -/
theorem test_V8_1_INC :
  let s := at_ [0xE6, 0x10] (put [(0x0010, 0xFE)] State.reset)
  ran s = some { put [(0x0010, 0xFF)] s with pc := 0x0202 } := by decide

/-- V8.2: INC $10 -/
theorem test_V8_2_INC :
  failed (at_ [0xE6, 0x10] (put [(0x0010, 0xFF)] State.reset)) =
    some ⟨7, 0x0200, 0xE6, some 0x100⟩ := by decide

/-- V8.3: INC $1000,X -/
theorem test_V8_3_INC :
  let s := at_ [0xFE, 0x00, 0x10] (put [(0x1002, 0x41)] { State.reset with x := 0x02 })
  ran s = some { put [(0x1002, 0x42)] s with pc := 0x0203 } := by decide

/-- V8.5: DEC $10 -/
theorem test_V8_5_DEC :
  failed (at_ [0xC6, 0x10] (put [(0x0010, 0x00)] State.reset)) =
    some ⟨7, 0x0200, 0xC6, some (-0x1)⟩ := by decide

/-- V8.6: DEC $10,X -/
theorem test_V8_6_DEC :
  let s := at_ [0xD6, 0x10] (put [(0x0005, 0x80)] { State.reset with x := 0xF5 })
  ran s = some { put [(0x0005, 0x7F)] s with pc := 0x0202 } := by decide

/-- V8.8: INX -/
theorem test_V8_8_INX :
  failed (at_ [0xE8] { State.reset with x := 0xFF }) =
    some ⟨7, 0x0200, 0xE8, some 0x100⟩ := by decide

/-- V8.9: INY -/
theorem test_V8_9_INY :
  failed (at_ [0xC8] { State.reset with y := 0xFF }) =
    some ⟨7, 0x0200, 0xC8, some 0x100⟩ := by decide

/-- V8.10: DEX -/
theorem test_V8_10_DEX :
  let s := at_ [0xCA] { State.reset with x := 0x00 }
  ran s = some { s with x := 0xFF, pc := 0x0201 } := by decide

/-- V8.12: DEY -/
theorem test_V8_12_DEY :
  let s := at_ [0x88] { State.reset with y := 0x00 }
  ran s = some { s with y := 0xFF, pc := 0x0201 } := by decide

/-! ## Stack: vectors V9 -/

/-- V9.2: PHP -/
theorem test_V9_2_PHP :
  let s := at_ [0x08] { State.reset with p := 0xA5 }
  ran s = some { put [(0x01FF, 0xA5)] s with sp := 0xFE, pc := 0x0201 } := by decide

/-- V9.3: PLA -/
theorem test_V9_3_PLA :
  failed (at_ [0x68] State.reset) =
    some ⟨6, 0x0200, 0x68, some 0xFF⟩ := by decide

/-- V9.4: PLA -/
theorem test_V9_4_PLA :
  let s := at_ [0x68] (put [(0x01FF, 0x3C)] { State.reset with sp := 0xFE })
  ran s = some { s with a := 0x3C, sp := 0xFF, pc := 0x0201 } := by decide

/-- V9.5: PLP -/
theorem test_V9_5_PLP :
  let s := at_ [0x28] (put [(0x01FF, 0xFF)] { State.reset with sp := 0xFE })
  ran s = some { s with sp := 0xFF, p := 0xFF, pc := 0x0201 } := by decide

/-- V9.6: PHA -/
theorem test_V9_6_PHA :
  failed (at_ [0x48] { State.reset with sp := 0x00, a := 0x11 }) =
    some ⟨5, 0x0200, 0x48, some 0x0⟩ := by decide

/-- V9.7: PHA -/
theorem test_V9_7_PHA :
  let s := at_ [0x48] { State.reset with sp := 0x01, a := 0x22 }
  ran s = some { put [(0x0101, 0x22)] s with sp := 0x00, pc := 0x0201 } := by decide

/-! ## Host operations and the assembler (vectors V1, V10; programs P4, P7) -/

/-- V1.8, R503: load copies bytes to 0x0200 on and moves no register. -/
theorem test_load :
  (load [0x69, 0x23] State.reset).toOption = some (put [(0x0200, 0x69), (0x0201, 0x23)] State.reset) := by decide

/-- R506: presets are checked against the register's width. -/
theorem test_preset :
  (preset .sp 0xFF State.reset).toOption = some { State.reset with sp := 0xFF } ∧
  (preset .pc 0xFFFF State.reset).toOption = some { State.reset with pc := 0xFFFF } ∧
  (preset .a 0x100 State.reset).toOption = none ∧ (preset (.cell 0x10000) 0x01 State.reset).toOption = none ∧
  (preset (.cell 0xFFFF) 0xFF State.reset).toOption = some (put [(0xFFFF, 0xFF)] State.reset) := by decide

/-- R170: a run whose first byte is the halt opcode executes nothing. -/
theorem test_run_halts_at_once : run 0x00 State.reset = .halted State.reset := by decide

/-- P7: the byte 0x4C is illegal here. -/
theorem test_run_faults :
  let s := put [(0x0200, 0xE8), (0x0201, 0x4C), (0x0203, 0x02)] State.reset
  run 0x00 s = .faulted { s with x := 0x01, pc := 0x0201 } (.illegalOpcode ⟨0x0201, 0x4C⟩) := by decide

/-- V10.1 to V10.4: the operand's digits choose the mode. -/
theorem test_assemble_modes :
  Assembler.assembleLine ['L', 'D', 'A', ' ', '$', '2', '3', '4', '5', ',', 'X'] = .ok [0xBD, 0x45, 0x23] ∧
  Assembler.assembleLine ['L', 'D', 'A', ' ', '$', '0', '0', '1', '2'] = .ok [0xAD, 0x12, 0x00] ∧
  Assembler.assembleLine ['L', 'D', 'A', ' ', '$', '1', '2'] = .ok [0xA5, 0x12] ∧
  Assembler.assembleLine ['A', 'S', 'L'] = .ok [0x0A] := ⟨rfl, rfl, rfl, rfl⟩

/-- V10.5 to V10.8: what no mode accepts, and what is no mnemonic. -/
theorem test_assemble_refuses :
  Assembler.assembleLine ['A', 'S', 'L', ' ', 'A'] = .error .noMatchingMode ∧
  Assembler.assembleLine ['S', 'T', 'A', ' ', '#', '$', '1', '0'] = .error .noMatchingMode ∧
  Assembler.assembleLine ['A', 'D', 'C', ' ', '$', '1', '2', '3', '4', '5'] = .error .noMatchingMode ∧
  Assembler.assembleLine ['J', 'M', 'P', ' ', '$', '0', '2', '0', '0'] = .error .unknownMnemonic := ⟨rfl, rfl, rfl, rfl⟩

/-- V10.9, R111: lines are put one after another, with white space at either side and blank lines allowed. -/
theorem test_assemble_lines :
  Assembler.assembleLines 1 [['\t', 'L', 'D', 'A', ' ', '(', '$', '2', '0', ')', ',', 'Y', ' '], [],
    ['S', 'T', 'X', ' ', '$', '1', '0', ',', 'Y']] = .ok [0xB1, 0x20, 0x96, 0x10] := rfl

/-- V10.10: the first error ends the pass, and names its line. -/
theorem test_assemble_first_error :
  Assembler.assembleLines 1 [['L', 'D', 'A', ' ', '#', '$', '0', '1'], ['F', 'O', 'O'],
    ['S', 'T', 'A', ' ', '#', '$', '1', '0']] = .error ⟨.unknownMnemonic, 2, ['F', 'O', 'O']⟩ := rfl

/-! ## Witnesses: states and operands that meet the hypotheses of each statement that has any, at the boundaries of its
clauses -/

theorem witness_EncodingADecodedInstructionGivesItsBytes :
  decode [0xAD, 0x34, 0x12, 0xFF] = .ok (.ldaAbs 0x1234, [0xFF]) := rfl

theorem witness_ListedEmptySlotsAreIllegal :
  State.reset.read State.reset.pc ∈ emptySlots ∧
  (at_ [0xFF] { State.reset with pc := 0xFFFF }).read 0xFFFF ∈ emptySlots := by decide

theorem witness_OperandBytesNeverReject :
  (slot 0xE8 = some (.INX, none) ∧ ([] : List Byte).length = modeWidth none) ∧
  (slot 0x69 = some (.ADC, some .immediate) ∧ ([0xFF] : List Byte).length = modeWidth (some .immediate)) ∧
  (slot 0xFE = some (.INC, some .absoluteX) ∧ ([0x00, 0xFF] : List Byte).length = modeWidth (some .absoluteX)) := by decide

theorem witness_StepRunsTheDecodedInstruction :
  let s := at_ [0xA5, 0x12] { State.reset with pc := 0xFFFE }
  decode (s.read s.pc :: operandBytesAt s) = .ok (.ldaZp 0x12, []) := rfl

theorem witness_StepFollowsTheFetchOrder :
  slot (State.reset.read State.reset.pc) = none ∧
  (let s := at_ [0xE8] { State.reset with pc := 0xFFFF }
   slot (s.read s.pc) = some (.INX, none) ∧ 0xFFFF < s.pc.toNat + 1 + modeWidth none) ∧
  (let s := at_ [0xAD] { State.reset with pc := 0xFFFD }
   slot (s.read s.pc) = some (.LDA, some .absolute) ∧ 0xFFFF < s.pc.toNat + 1 + modeWidth (some .absolute)) ∧
  (let s := at_ [0xE8] { State.reset with pc := 0xFFFE }
   slot (s.read s.pc) = some (.INX, none) ∧ s.pc.toNat + 1 + modeWidth none = 0xFFFF) ∧
  (let s := at_ [0xAD] { State.reset with pc := 0xFFFC }
   slot (s.read s.pc) = some (.LDA, some .absolute) ∧ s.pc.toNat + 1 + modeWidth (some .absolute) = 0xFFFF) := by decide

theorem witness_AssembledLineRunsInOneStep :
  ({ State.reset with pc := 0xFFFC } : State).Inv ∧ (0xFFFC : Word).toNat + 1 + (Instr.ldaAbs 0xFFFF).width ≤ 0xFFFF ∧
  (Assembler.assembleLine (Assembler.spell (.ldaAbs 0xFFFF))).toOption = some [0xAD, 0xFF, 0xFF] ∧
  (ran (placeInstruction [0xE8] { State.reset with pc := 0xFFFE })).isSome = true := ⟨rfl, by decide, rfl, by decide⟩

theorem witness_CompletedInstructionAdvancesPc :
  done .inx { State.reset with pc := 0xFFFE } = some { State.reset with x := 0x01, pc := 0xFFFF } := by decide

theorem witness_ExecFaultsExactlyWhereTheSpecSays :
  faultOf .inx { State.reset with pc := 0xFFFF } = some (.pcOverflow ⟨0xFFFF, 0xE8⟩) ∧
  faultOf .inx { State.reset with pc := 0xFFFE } = none ∧
  faultOf (.ldaAbsX 0xFF01) { State.reset with x := 0xFF } = some (.addressOverflow ⟨0x0200, 0xBD⟩ 0x10000) ∧
  faultOf (.ldaAbsX 0xFF00) { State.reset with x := 0xFF } = none ∧
  faultOf (.ldaIndX 0xFE) { State.reset with x := 0x01 } = some (.wrapUnsettled ⟨0x0200, 0xA1⟩ 0xFF) ∧
  faultOf (.ldaIndX 0xFD) { State.reset with x := 0x01 } = none ∧
  faultOf .pha { State.reset with sp := 0x00 } = some (.stackOverflow ⟨0x0200, 0x48⟩ 0x00) ∧
  faultOf .pha { State.reset with sp := 0x01 } = none ∧
  faultOf .plp { State.reset with sp := 0xFF } = some (.stackUnderflow ⟨0x0200, 0x28⟩ 0xFF) ∧
  faultOf .plp { State.reset with sp := 0xFE } = none ∧
  faultOf .aslAcc { State.reset with a := 0x80 } = some (.widthOverflow ⟨0x0200, 0x0A⟩ 0x100) ∧
  faultOf .aslAcc { State.reset with a := 0x7F } = none := by decide

theorem witness_StepIsNeverRefused :
  failed State.reset = some ⟨1, 0x0200, 0x00, none⟩ ∧
  failed (at_ [0x68] State.reset) = some ⟨6, 0x0200, 0x68, some 0xFF⟩ := by decide

theorem witness_MaskedAndPlainModesResolve :
  ({ State.reset with pc := 0xFFFD } : State).pc.toNat + 2 ≤ 0xFFFF ∧
  (let s := put [(0x0201, 0xFF)] { State.reset with x := 0x02, y := 0x01 }
   resolve ⟨0, 0⟩ (operandAt .zeroPageX s) s = .ok 0x0001 ∧ resolve ⟨0, 0⟩ (operandAt .zeroPageY s) s = .ok 0x0000) := ⟨by decide, rfl, rfl⟩

theorem witness_IndexedAbsoluteModesResolve :
  (0xFF00 : Word).toNat + (0xFF : Byte).toNat = 0xFFFF ∧ (0xFF01 : Word).toNat + (0xFF : Byte).toNat = 0x10000 ∧
  (let s := { State.reset with x := 0xFF, y := 0xFF }
   resolve ⟨0, 0⟩ (.absoluteX 0xFF00) s = .ok 0xFFFF ∧
   resolve ⟨0, 0⟩ (.absoluteY 0xFF01) s = .error (.addressOverflow ⟨0, 0⟩ 0x10000)) := ⟨by decide, by decide, rfl, rfl⟩

theorem witness_IndexedIndirectResolves :
  (0xFE : Byte).toNat + State.reset.x.toNat = 0xFE ∧ (0xFE : Byte).toNat + (0x01 : Byte).toNat = 0xFF ∧
  resolve ⟨0, 0⟩ (.indexedIndirect 0xFE) (put [(0xFE, 0x34), (0xFF, 0x12)] State.reset) = .ok 0x1234 := ⟨by decide, by decide, rfl⟩

theorem witness_IndirectIndexedResolves :
  (let s := put [(0xFE, 0x00), (0xFF, 0xFF)] { State.reset with y := 0xFF }
   (0xFE : Byte) ≠ 0xFF ∧ (s.read 0xFE).toNat + 0x100 * (s.read 0xFF).toNat + s.y.toNat = 0xFFFF ∧
   resolve ⟨0, 0⟩ (.indirectIndexed 0xFE) s = .ok 0xFFFF) ∧
  (let s := put [(0xFE, 0x01), (0xFF, 0xFF)] { State.reset with y := 0xFF }
   (s.read 0xFE).toNat + 0x100 * (s.read 0xFF).toNat + s.y.toNat = 0x10000 ∧
   resolve ⟨0, 0⟩ (.indirectIndexed 0xFE) s = .error (.addressOverflow ⟨0, 0⟩ 0x10000)) := ⟨⟨by decide, by decide, rfl⟩, by decide, rfl⟩

theorem witness_UnboundModesResolve :
  (0xFFFE : Word) ≠ 0xFFFF ∧
  (0xFF81 : Word).toNat + 1 + (0x7D : Byte).toInt = 0xFFFF ∧ (0xFF81 : Word).toNat + 1 + (0x7E : Byte).toInt = 0x10000 ∧
  (0x007F : Word).toNat + 1 + (0x80 : Byte).toInt = 0 ∧ (0x007E : Word).toNat + 1 + (0x80 : Byte).toInt = -1 := by decide

theorem witness_AdcAddsWithoutCarry :
  (Instr.adcImm 0x0F).op = .ADC ∧ cycleFault (.adcImm 0x0F) { State.reset with pc := 0xFFFE } = some (.pcOverflow ⟨0xFFFE, 0x69⟩) ∧
  cycleFault (.adcImm 0x0F) { State.reset with pc := 0xFFFD } = none ∧ dataByte? (.adcImm 0x0F) State.reset = some 0x0F ∧
  (0xF0 : Byte).toNat + (0x0F : Byte).toNat = 0xFF ∧ (0xF1 : Byte).toNat + (0x0F : Byte).toNat = 0x100 := by decide

theorem witness_AndIsBitwiseAnd :
  (Instr.andImm 0x0F).op = .AND ∧ cycleFault (.andImm 0x0F) { State.reset with a := 0xF0, pc := 0xFFFD } = none ∧
  dataByte? (.andImm 0x0F) { State.reset with a := 0xF0, pc := 0xFFFD } = some 0x0F := by decide

theorem witness_EorIsBitwiseExclusiveOr :
  (Instr.eorImm 0x0F).op = .EOR ∧ cycleFault (.eorImm 0x0F) { State.reset with a := 0xF0, pc := 0xFFFD } = none ∧
  dataByte? (.eorImm 0x0F) { State.reset with a := 0xF0, pc := 0xFFFD } = some 0x0F := by decide

theorem witness_OraIsBitwiseInclusiveOr :
  (Instr.oraImm 0x0F).op = .ORA ∧ cycleFault (.oraImm 0x0F) { State.reset with a := 0xF0, pc := 0xFFFD } = none ∧
  dataByte? (.oraImm 0x0F) { State.reset with a := 0xF0, pc := 0xFFFD } = some 0x0F := by decide

theorem witness_SbcSubtractsWithoutBorrow :
  (Instr.sbcZp 0x10).op = .SBC ∧ cycleFault (.sbcZp 0x10) { State.reset with pc := 0xFFFE } = some (.pcOverflow ⟨0xFFFE, 0xE5⟩) ∧
  (let s := put [(0x10, 0x30)] State.reset
   cycleFault (.sbcZp 0x10) s = none ∧ dataByte? (.sbcZp 0x10) s = some 0x30) ∧
  (0x30 : Byte).toNat ≤ (0x30 : Byte).toNat ∧ (0x2F : Byte).toNat < (0x30 : Byte).toNat := by decide

theorem witness_AslShiftsLeftExactly :
  Instr.aslAcc.op = .ASL ∧ cycleFault (.aslAbsX 0xFFFF) { State.reset with x := 0x01 } ≠ none ∧
  (cycleFault .aslAcc State.reset = none ∧ Instr.aslAcc.mode? = none ∧ (0x7F : Byte).toNat < 0x80 ∧ 0x80 ≤ (0x80 : Byte).toNat) ∧
  (let s := put [(0x10, 0x7F)] State.reset
   cycleFault (.aslZp 0x10) s = none ∧ (Instr.aslZp 0x10).mode? ≠ none ∧ effectiveAddress? (.aslZp 0x10) s = some 0x0010 ∧
   (s.read 0x0010).toNat < 0x80) ∧
  (let s := put [(0x10, 0x80)] State.reset
   cycleFault (.aslZp 0x10) s = none ∧ 0x80 ≤ (s.read 0x0010).toNat) := by decide

theorem witness_LsrShiftsRightWithZero :
  (Instr.lsrAcc.op = .LSR ∧ cycleFault .lsrAcc { State.reset with pc := 0xFFFE } = none ∧ Instr.lsrAcc.mode? = none) ∧
  ((Instr.lsrAbsX 0xFF00).op = .LSR ∧ cycleFault (.lsrAbsX 0xFF00) { State.reset with x := 0xFF } = none ∧
   (Instr.lsrAbsX 0xFF00).mode? ≠ none) := by decide

theorem witness_RolRotatesLeft :
  (Instr.rolAcc.op = .ROL ∧ cycleFault .rolAcc { State.reset with pc := 0xFFFE } = none ∧ Instr.rolAcc.mode? = none) ∧
  ((Instr.rolAbsX 0xFF00).op = .ROL ∧ cycleFault (.rolAbsX 0xFF00) { State.reset with x := 0xFF } = none ∧
   (Instr.rolAbsX 0xFF00).mode? ≠ none) := by decide

theorem witness_RorRotatesRight :
  (Instr.rorAcc.op = .ROR ∧ cycleFault .rorAcc { State.reset with pc := 0xFFFE } = none ∧ Instr.rorAcc.mode? = none) ∧
  ((Instr.rorAbsX 0xFF00).op = .ROR ∧ cycleFault (.rorAbsX 0xFF00) { State.reset with x := 0xFF } = none ∧
   (Instr.rorAbsX 0xFF00).mode? ≠ none) := by decide

theorem witness_LdaLoadsA :
  (Instr.ldaIndX 0xFE).op = .LDA ∧ cycleFault (.ldaIndX 0xFE) { State.reset with y := 0x02 } = none := by decide

theorem witness_LdxLoadsX :
  (Instr.ldxZpY 0xFF).op = .LDX ∧ cycleFault (.ldxZpY 0xFF) { State.reset with y := 0x02 } = none := by decide

theorem witness_LdyLoadsY :
  (Instr.ldyAbsX 0xFFFF).op = .LDY ∧ cycleFault (.ldyAbsX 0xFFFF) { State.reset with y := 0x02 } = none := by decide

theorem witness_StaStoresA :
  (Instr.staAbsY 0xFFFD).op = .STA ∧ cycleFault (.staAbsY 0xFFFD) { State.reset with a := 0x02, pc := 0xFF00 } = none ∧
  State.reset.mem.wf = true ∧ (done (.staAbsY 0xFFFD) State.reset).isSome = true := by decide

theorem witness_StxStoresX :
  (Instr.stxZpY 0xFF).op = .STX ∧ cycleFault (.stxZpY 0xFF) { State.reset with x := 0x02, pc := 0xFF00 } = none ∧
  State.reset.mem.wf = true ∧ (done (.stxZpY 0xFF) State.reset).isSome = true ∧ (0xFFFD : Word).toNat + 1 + (Instr.stxZpY 0xFF).width = 0xFFFF := by decide

theorem witness_StyStoresY :
  (Instr.styAbs 0xFFFF).op = .STY ∧ cycleFault (.styAbs 0xFFFF) { State.reset with y := 0x02, pc := 0xFF00 } = none ∧
  State.reset.mem.wf = true ∧ (done (.styAbs 0xFFFF) State.reset).isSome = true ∧ (0xFFFC : Word).toNat + 1 + (Instr.styAbs 0xFFFF).width = 0xFFFF := by decide

theorem witness_TransfersCopyOneRegister :
  (0xFFFE : Word).toNat + 1 ≤ 0xFFFF ∧ 0xFFFF < (0xFFFF : Word).toNat + 1 ∧
  ((0xFFFD : Word).toNat + 2 ≤ 0xFFFF ∧ (0x01 : Byte) ≠ 0x00) := by decide

theorem witness_IncIncrementsMemory :
  (Instr.incAbsX 0xFF00).op = .INC ∧ cycleFault (.incAbsX 0xFF01) { State.reset with x := 0xFF } ≠ none ∧
  (let s := put [(0xFFFF, 0xFE)] { State.reset with x := 0xFF }
   cycleFault (.incAbsX 0xFF00) s = none ∧ effectiveAddress? (.incAbsX 0xFF00) s = some 0xFFFF ∧ s.read 0xFFFF ≠ 0xFF) ∧
  (let s := put [(0xFFFF, 0xFF)] { State.reset with x := 0xFF }
   cycleFault (.incAbsX 0xFF00) s = none ∧ s.read 0xFFFF = 0xFF) := by decide

theorem witness_DecDecrementsMemory :
  (Instr.decZpX 0xFF).op = .DEC ∧ cycleFault (.decZpX 0xFF) { State.reset with pc := 0xFFFE } ≠ none ∧
  (let s := put [(0x00, 0x01)] { State.reset with x := 0x01 }
   cycleFault (.decZpX 0xFF) s = none ∧ effectiveAddress? (.decZpX 0xFF) s = some 0x0000 ∧ s.read 0x0000 ≠ 0x00) ∧
  (cycleFault (.decZpX 0xFF) State.reset = none ∧ State.reset.read 0x00FF = 0x00) := by decide

theorem witness_InxInyIncrementWithoutWrap :
  (0xFFFE : Word).toNat + 1 ≤ 0xFFFF ∧ 0xFFFF < (0xFFFF : Word).toNat + 1 ∧ (0xFE : Byte) ≠ 0xFF ∧
  (done .inx { State.reset with x := 0xFE, pc := 0xFFFE }).isSome = true ∧ done .iny { State.reset with y := 0xFF } = none := by decide

theorem witness_DexDeyDecrementAndWrap :
  (0xFFFE : Word).toNat + 1 ≤ 0xFFFF ∧ (done .dex { State.reset with x := 0x00, pc := 0xFFFE }).isSome = true := by decide

theorem witness_PhaPushesA :
  (0xFFFE : Word).toNat + 1 ≤ 0xFFFF ∧ 0xFFFF < (0xFFFF : Word).toNat + 1 ∧ (0x01 : Byte) ≠ 0x00 ∧
  (done .pha { State.reset with sp := 0x01, pc := 0xFFFE }).isSome = true ∧ done .pha { State.reset with sp := 0x00 } = none := by decide

theorem witness_PhpPushesStatusUnchanged :
  (0xFFFE : Word).toNat + 1 ≤ 0xFFFF ∧ 0xFFFF < (0xFFFF : Word).toNat + 1 ∧ (0x01 : Byte) ≠ 0x00 ∧
  (done .php { State.reset with sp := 0x01, pc := 0xFFFE }).isSome = true ∧ done .php { State.reset with sp := 0x00 } = none := by decide

theorem witness_PlaPullsA :
  (0xFFFE : Word).toNat + 1 ≤ 0xFFFF ∧ 0xFFFF < (0xFFFF : Word).toNat + 1 ∧ (0xFE : Byte) ≠ 0xFF ∧
  (done .pla { State.reset with sp := 0xFE, pc := 0xFFFE }).isSome = true ∧ done .pla { State.reset with sp := 0xFF } = none := by decide

theorem witness_PlpPullsStatusWhole :
  (0xFFFE : Word).toNat + 1 ≤ 0xFFFF ∧ 0xFFFF < (0xFFFF : Word).toNat + 1 ∧ (0xFE : Byte) ≠ 0xFF ∧
  (done .plp { State.reset with sp := 0xFE, pc := 0xFFFE }).isSome = true ∧ done .plp { State.reset with sp := 0xFF } = none := by decide

theorem witness_ArithmeticAndLogicFrame :
  (Instr.adcImm 0xFF).op ∈ [Op.ADC, .AND, .EOR, .ORA, .SBC] ∧ (done (.adcImm 0xFF) State.reset).isSome = true := by decide

theorem witness_LoadFrame :
  (Instr.ldxImm 0xFF).op ∈ [Op.LDA, .LDX, .LDY] ∧ (done (.ldxImm 0xFF) State.reset).isSome = true ∧
  (Instr.ldxImm 0xFF).op ≠ .LDA ∧ (Instr.ldaImm 0xFF).op ≠ .LDX ∧ (Instr.ldaImm 0xFF).op ≠ .LDY := by decide

theorem witness_StoreFrame :
  (Instr.staAbsX 0xFF00).op ∈ [Op.STA, .STX, .STY] ∧ (done (.staAbsX 0xFF00) { State.reset with x := 0xFF }).isSome = true ∧
  effectiveAddress? (.staAbsX 0xFF00) { State.reset with x := 0xFF } = some 0xFFFF ∧ (0xFFFE : Word) ≠ 0xFFFF := by decide

theorem witness_MemoryShiftAndIncrementFrame :
  (Instr.incZp 0xFF).op ∈ [Op.ASL, .LSR, .ROL, .ROR, .INC, .DEC] ∧ (Instr.incZp 0xFF).mode? ≠ none ∧
  (done (.incZp 0xFF) State.reset).isSome = true ∧ effectiveAddress? (.incZp 0xFF) State.reset = some 0x00FF := by decide

theorem witness_RegisterFormFrame :
  Instr.inx ∈ [Instr.aslAcc, .lsrAcc, .rolAcc, .rorAcc, .inx, .iny, .dex, .dey] ∧ (done .inx State.reset).isSome = true := by decide

theorem witness_TransferFrame :
  Instr.txs ∈ [Instr.tax, .tay, .tsx, .txa, .txs, .tya] ∧ (done .txs State.reset).isSome = true := by decide

theorem witness_PushFrame :
  Instr.php ∈ [Instr.pha, .php] ∧ (done .php { State.reset with sp := 0x01 }).isSome = true ∧ (0x0100 : Word) ≠ stackAddress 0x01 := by decide

theorem witness_PullFrame :
  Instr.pla ∈ [Instr.pla, .plp] ∧ (done .pla { State.reset with sp := 0xFE }).isSome = true := by decide

theorem witness_StepKeepsMemoryCanonical :
  let s := at_ [0x8D, 0xFF, 0xFF] { State.reset with a := 0x80 }
  s.Inv ∧ (ran s).map (fun t => t.mem) = some [(0x0200, 0x8D), (0x0201, 0xFF), (0x0202, 0xFF), (0xFFFF, 0x80)] := ⟨rfl, by decide⟩

theorem witness_CanonicalMemoryIsDeterminedByItsBytes :
  let m := Memory.write (Memory.write [] 0xFFFF 0x01) 0x0000 0x02
  let n := Memory.write (Memory.write (Memory.write [] 0x0000 0x02) 0x1234 0x03) 0xFFFF 0x01
  m.wf = true ∧ n.wf = true ∧ m = n.write 0x1234 0x00 := by decide

theorem witness_InstructionWritesAtMostOneByte :
  (done (.staZp 0x10) { State.reset with a := 0x01 }).map (fun t => t.read 0x0010) = some 0x01 ∧ State.reset.read 0x0010 ≠ 0x01 := by decide

theorem witness_OnlyPlpWritesAndOnlyPhpReadsStatus :
  Instr.pha ≠ .plp ∧ Instr.pha ≠ .php ∧ (done .pha State.reset).isSome = true := by decide

theorem witness_PhaThenPlaRestores :
  ({ State.reset with sp := 0x01, pc := 0xFFFD } : State).Inv ∧ (0x01 : Byte) ≠ 0x00 ∧ (0xFFFD : Word).toNat + 2 ≤ 0xFFFF := ⟨rfl, by decide, by decide⟩

theorem witness_RunUnfoldsTickByTick :
  State.reset.read State.reset.pc = 0x00 ∧
  (let s := at_ [0xE8] State.reset
   s.read s.pc ≠ 0x00 ∧ (ran s).isSome = true) ∧
  (let s := at_ [0x68] State.reset
   s.read s.pc ≠ 0x00 ∧ (failed s).isSome = true) := by decide

theorem witness_LoadCopiesTheRom :
  State.reset.Inv ∧ (List.replicate 0xFE00 (0xE8 : Byte)).length ≤ 0xFE00 ∧
  0xFE00 < (List.replicate 0xFE01 (0xE8 : Byte)).length := 
  ⟨rfl, Nat.le_of_eq List.length_replicate, by rw [List.length_replicate]; exact Nat.lt_succ_self _⟩

end Sys2Proof.Tests
end

section
/-! Proofs of 30_encoding.md, the layer over the decoder: what a slot's mode reads, the round trip of an instruction's bytes, and
how long they are. -/

namespace Sys2Proof

theorem Operand.length_elim_bytes (o : Option Operand) :
    (o.elim [] Operand.bytes).length = modeWidth (o.map Operand.mode) := by
  cases o with
  | none => rfl
  | some o => exact o.bytes_length

/-- A slot's mode reads exactly the operand bytes of its width, whatever their values (R94). -/
theorem slotOperand_append {m : Option Mode} {operand : List Byte} (rest : List Byte)
    (h : operand.length = modeWidth m) :
    ∃ o, slotOperand m (operand ++ rest) = some (o, rest) ∧ o.elim [] Operand.bytes = operand ∧
      o.map Operand.mode = m := by
  cases m with
  | none =>
    rw [List.eq_nil_of_length_eq_zero h]
    exact ⟨none, rfl, rfl, rfl⟩
  | some m =>
    have henough : m.width ≤ (operand ++ rest).length := by
      rw [List.length_append, h]
      exact Nat.le_add_right _ _
    obtain ⟨⟨o, rest'⟩, ho⟩ := operandOfBytes_isSome henough
    obtain ⟨hmode, hbytes⟩ := operandOfBytes_eq_some ho
    have hlen : operand.length = o.bytes.length := by
      rw [h, o.bytes_length, Operand.width, hmode, modeWidth]
    obtain ⟨rfl, rfl⟩ := List.append_inj hbytes hlen
    exact ⟨some o, by simp [slotOperand, ho], rfl, by simp [hmode]⟩

theorem slotOperand_operandBytes (i : Instr) (rest : List Byte) :
    slotOperand i.mode? (i.operandBytes ++ rest) = some (i.operand?, rest) := by
  unfold Instr.mode? Instr.operandBytes
  cases i.operand? with
  | none => rfl
  | some o => simp [slotOperand, operandOfBytes_bytes]

/-- The decoder gives an instruction back from its bytes, whatever follows them. -/
theorem decodeFrom_operandBytes (i : Instr) (rest : List Byte) :
    decodeFrom i.opcode (i.operandBytes ++ rest) = .ok (i, rest) :=
  decodeFrom_eq_ok.2 ⟨i.op, i.mode?, i.operand?, slot_opcode i, slotOperand_operandBytes i rest, toInstr?_form i⟩

theorem decodeFrom_of_slot_none {b : Byte} (h : slot b = none) (bytes : List Byte) :
    decodeFrom b bytes = .error (.emptySlot b) := by
  simp only [decodeFrom, h]

theorem modeWidth_le_two (m : Option Mode) : modeWidth m ≤ 2 := by
  cases m with
  | none => decide
  | some m => cases m <;> decide

theorem Instr.width_le_two (i : Instr) : i.width ≤ 2 := modeWidth_le_two _

theorem Instr.operandBytes_length (i : Instr) : i.operandBytes.length = i.width := by
  rw [Instr.operandBytes_eq, Operand.length_elim_bytes]; rfl

theorem encode_length (i : Instr) : (encode i).length = 1 + i.width := by
  rw [encode, List.length_cons, i.operandBytes_length, Nat.add_comm]

/-- No mnemonic has mode `relative` or `indirect` (R101). -/
theorem modes_unbound (op : Op) : some .relative ∉ op.modes ∧ some .indirect ∉ op.modes := by
  cases op <;> decide

theorem Instr.mode?_ne_unbound (i : Instr) : i.mode? ≠ some .relative ∧ i.mode? ≠ some .indirect := by
  obtain ⟨hrel, hind⟩ := modes_unbound i.op
  have hmem := Machine.mode?_mem_modes i
  exact ⟨fun h => hrel (h ▸ hmem), fun h => hind (h ▸ hmem)⟩

end Sys2Proof
end

section
/-! Proofs of 30_encoding.md: the instruction format and the opcode map (R90, R94, R99). -/

namespace Sys2Proof.Machine

/-- The map of R98 leaves empty just the bytes that R99 lists, checked at each of the 256. -/
theorem slot_eq_none_iff : ∀ b : Byte, slot b = none ↔ b ∈ emptySlots := by
  decide +kernel

theorem step_of_slot_none {s : State} (h : slot (s.read s.pc) = none) :
    step s = .fault (.illegalOpcode ⟨s.pc, s.read s.pc⟩) := by
  simp only [step, fetch, decodeFrom_of_slot_none h]
  rfl

/-- Settles O3: the slots by the list of R99, the step by the decoder's answer at an empty slot. -/
theorem listedEmptySlotsAreIllegal : Obligations.ListedEmptySlotsAreIllegal := by
  refine ⟨slot_eq_none_iff, rfl, by decide +kernel, fun s h => ?_⟩
  exact step_of_slot_none ((slot_eq_none_iff _).2 h)

/-- Settles O4: the slot's mode reads an operand from the bytes whatever they are, and a populated slot with any operand of its
mode is an instruction. -/
theorem operandBytesNeverReject : Obligations.OperandBytesNeverReject := by
  intro b op m operand rest hslot hlen
  obtain ⟨o, ho, hbytes, hmode⟩ := slotOperand_append rest hlen
  obtain ⟨i, hi, -⟩ := slot_toInstr? hslot o hmode
  have hform : i.form = ⟨op, o⟩ := form_of_toInstr? hi
  have hop : i.op = op := congrArg Form.op hform
  have hoperand : i.operand? = o := congrArg Form.operand hform
  refine ⟨i, decodeFrom_eq_ok.2 ⟨op, m, o, hslot, ho, hi⟩, hop, ?_, ?_⟩
  · rw [Instr.mode?, hoperand, hmode]
  · rw [Instr.operandBytes_eq, hoperand, hbytes]

/-- Settles O5: the width of every mode is at most 2, and the slots and the mode lists of R102 bind neither `relative` nor
`indirect`. -/
theorem instructionIsOpcodeAndOperandBytes : Obligations.InstructionIsOpcodeAndOperandBytes := by
  intro i
  have hwidth := i.width_le_two
  have hlength := encode_length i
  exact ⟨rfl, i.operandBytes_length, hwidth, by omega, slot_opcode i, i.mode?_ne_unbound⟩

end Sys2Proof.Machine
end

section
/-! Proofs of 30_encoding.md, the layer over the assembler: it reads back what `spell` writes (R110 to R116). -/

namespace Sys2Proof.Assembler

/-! ## Characters -/

theorem isOperandChar_hexChar {n : Nat} (h : n < 16) : isOperandChar (hexChar n) = true := by
  simp [isOperandChar, hexDigit_hexChar n h]

theorem not_isBlank_of_isOperandChar {c : Char} (h : isOperandChar c = true) : isBlank c = false := by
  cases hb : isBlank c with
  | false => rfl
  | true =>
    have hc : (c = ' ' ∨ c = '\t') ∨ c = '\r' := by simpa [isBlank] using hb
    rcases hc with (rfl | rfl) | rfl <;> exact absurd h (by decide)

/-! ## The hex field of an operand -/

theorem byteText_all_isOperandChar (b : Byte) : (byteText b).all isOperandChar = true := by
  have hb := b.isLt
  simp [byteText, isOperandChar_hexChar (show b.toNat / 16 < 16 by omega),
    isOperandChar_hexChar (show b.toNat % 16 < 16 by omega)]

theorem hexField_byteText (n v : Nat) (b : Byte) (rest : List Char) :
    hexField (n + 2) v (byteText b ++ rest) = hexField n (0x100 * v + b.toNat) rest := by
  have hb := b.isLt
  simp only [byteText, List.cons_append, List.nil_append, hexField, hexDigit_hexChar _ (show b.toNat / 16 < 16 by omega),
    hexDigit_hexChar _ (show b.toNat % 16 < 16 by omega)]
  congr 1
  omega

theorem hexField_byte (b : Byte) (rest : List Char) : hexField 2 0 (byteText b ++ rest) = some (b.toNat, rest) := by
  rw [hexField_byteText, hexField, Nat.mul_zero, Nat.zero_add]

theorem hexField_word (w : Word) (rest : List Char) : hexField 4 0 (wordText w ++ rest) = some (w.toNat, rest) := by
  rw [wordText, List.append_assoc, hexField_byteText, hexField_byteText, hexField, Nat.mul_zero, Nat.zero_add,
    Nat.add_comm, ← Word.ofBytes_toNat, Word.ofBytes_split]

/-! ## The operand text -/

/-- The operand text of an instruction: empty for the implied and accumulator-only forms (R113). -/
def operandField (o : Option Operand) : List Char := o.elim [] operandText

theorem operandField_all_isOperandChar (o : Option Operand) : (operandField o).all isOperandChar = true := by
  have hsymbols : ['#', '$', '(', ')', ',', 'X', 'Y'].all isOperandChar = true := by decide
  simp only [List.all_cons, List.all_nil, Bool.and_true, Bool.and_eq_true] at hsymbols
  cases o with
  | none => rfl
  | some o => cases o <;> simp [operandField, operandText, wordText, byteText_all_isOperandChar, hsymbols]

theorem operandField_not_isBlank (o : Option Operand) : ∀ c ∈ operandField o, isBlank c = false := fun c hc =>
  not_isBlank_of_isOperandChar (List.all_eq_true.1 (operandField_all_isOperandChar o) c hc)

/-- The matcher of an operand's own mode reads the operand from its text (R113). -/
theorem matchMode_operandField (o : Option Operand) (hrel : o.map Operand.mode ≠ some .relative)
    (hind : o.map Operand.mode ≠ some .indirect) :
    matchMode (o.map Operand.mode) (operandField o) = some o := by
  cases o with
  | none => rfl
  | some o =>
    have hbyte : ∀ b : Byte, hexField 2 0 (byteText b) = some (b.toNat, []) := fun b => by
      simpa using hexField_byte b []
    have hword : ∀ w : Word, hexField 4 0 (wordText w) = some (w.toNat, []) := fun w => by
      simpa using hexField_word w []
    cases o with
    | relative => exact absurd rfl hrel
    | indirect => exact absurd rfl hind
    | _ =>
      simp [matchMode, operandField, operandText, Operand.mode, modeText, afterText, operandOfValue, hexField_byte,
        hexField_word, hbyte, hword]

/-! ## No two of a mnemonic's matchers accept the same text (R114)

A text a matcher accepts, with `h` for each hex digit as R113 writes it, is the mode's form in R113's table. -/

/-- A character as R113 writes it: `h` for a hex digit. -/
def formChar (c : Char) : Char := if (hexDigit c).isSome then 'h' else c

/-- The operand text form of a mode in the table of R113. -/
def modeForm (m : Option Mode) : List Char :=
  match m.bind modeText with
  | none => []
  | some (lead, digits, tail) => lead ++ List.replicate digits 'h' ++ tail

theorem eq_append_of_afterText {lead text rest : List Char} (h : afterText lead text = some rest) : text = lead ++ rest := by
  induction lead generalizing text with
  | nil => cases h; rfl
  | cons c lead ih =>
    cases text with
    | nil => cases h
    | cons d text =>
      simp only [afterText] at h
      split at h
      · next hcd => rw [hcd, ih h]; rfl
      · cases h

theorem map_formChar_of_hexField {n v w : Nat} {text rest : List Char} (h : hexField n v text = some (w, rest)) :
    text.map formChar = List.replicate n 'h' ++ rest.map formChar := by
  induction n generalizing v text with
  | zero => cases h; rfl
  | succ n ih =>
    cases text with
    | nil => cases h
    | cons c text =>
      simp only [hexField] at h
      split at h
      · next d hd => rw [List.map_cons, ih h, formChar, hd]; rfl
      · cases h

theorem map_formChar_modeText {m : Mode} {lead tail : List Char} {digits : Nat}
    (h : modeText m = some (lead, digits, tail)) : lead.map formChar = lead ∧ tail.map formChar = tail := by
  cases m <;> cases h <;> decide

theorem map_formChar_of_matchMode {m : Option Mode} {text : List Char} {o : Option Operand}
    (h : matchMode m text = some o) : text.map formChar = modeForm m := by
  cases m with
  | none =>
    simp only [matchMode] at h
    split at h
    · next ht => rw [ht]; rfl
    · cases h
  | some m =>
    simp only [matchMode, Option.bind_eq_bind, Option.bind_eq_some_iff] at h
    obtain ⟨⟨lead, digits, tail⟩, hm, field, hlead, ⟨v, rest⟩, hfield, htail⟩ := h
    obtain ⟨hl, ht⟩ := map_formChar_modeText hm
    have hrest : rest = tail := by
      by_contra hne
      simp [hne] at htail
    rw [eq_append_of_afterText hlead, List.map_append, map_formChar_of_hexField hfield, hrest, hl, ht]
    simp [modeForm, hm]

theorem modeForm_nodup (op : Op) : (op.modes.map modeForm).Nodup := by
  cases op <;> decide

/-- The order of probing does not matter: a mode of the mnemonic that accepts the text gives the operand (R114). -/
theorem matchOperand_of_matchMode {op : Op} {m : Option Mode} {text : List Char} {o : Option Operand}
    (hm : m ∈ op.modes) (h : matchMode m text = some o) : matchOperand op text = some o := by
  have hsome : (matchOperand op text).isSome := List.findSome?_isSome_iff.2 ⟨m, hm, by rw [h]; rfl⟩
  obtain ⟨o', ho'⟩ := Option.isSome_iff_exists.1 hsome
  obtain ⟨m', hm', h'⟩ := List.exists_of_findSome?_eq_some ho'
  have hform : modeForm m' = modeForm m := by rw [← map_formChar_of_matchMode h', map_formChar_of_matchMode h]
  have hsame : m' = m := List.inj_on_of_nodup_map (modeForm_nodup op) hm' hm hform
  rw [ho', ← h', hsame, h]

theorem matchOperand_operandField (i : Instr) : matchOperand i.op (operandField i.operand?) = some i.operand? := by
  obtain ⟨hrel, hind⟩ := i.mode?_ne_unbound
  exact matchOperand_of_matchMode (Machine.mode?_mem_modes i) (matchMode_operandField i.operand? hrel hind)

/-! ## The words of a line -/

theorem mnemonicOf_mnemonicText (op : Op) : mnemonicOf (mnemonicText op) = some op := by
  cases op <;> rfl

theorem isMnemonicWord_mnemonicText (op : Op) : isMnemonicWord (mnemonicText op) = true := by
  cases op <;> decide

theorem mnemonicText_not_isBlank (op : Op) : ∀ c ∈ mnemonicText op, isBlank c = false := by
  have hall : ((mnemonicText op).all fun c => !isBlank c) = true := by cases op <;> rfl
  simpa using hall

theorem mnemonicText_ne_nil (op : Op) : mnemonicText op ≠ [] := by
  cases op <;> exact List.cons_ne_nil _ _

theorem trimFront_of_head? {text : List Char} (h : ∀ c ∈ text.head?, isBlank c = false) : trimFront text = text := by
  cases text with
  | nil => rfl
  | cons c text => simp [trimFront, h c rfl]

theorem trim_of_ends {text : List Char} (hfront : ∀ c ∈ text.head?, isBlank c = false)
    (hback : ∀ c ∈ text.getLast?, isBlank c = false) : trim text = text := by
  rw [trim, trimFront_of_head? hfront, trimFront_of_head? (by rwa [List.head?_reverse]), List.reverse_reverse]

/-- An instruction's operand has a mode that R113 spells. -/
theorem operandText_ne_nil {i : Instr} {o : Operand} (h : i.operand? = some o) : operandText o ≠ [] := by
  obtain ⟨hrel, hind⟩ := i.mode?_ne_unbound
  rw [Instr.mode?, h] at hrel hind
  cases o with
  | relative => exact absurd rfl hrel
  | indirect => exact absurd rfl hind
  | _ => simp [operandText]

/-- What stands after the mnemonic of a spelled instruction: nothing, or one space and the operand text. -/
theorem spell_eq (i : Instr) : spell i = mnemonicText i.op ++ i.operand?.elim [] fun o => ' ' :: operandText o := by
  unfold spell
  cases i.operand? <;> simp

theorem takeWhile_spell (i : Instr) : (spell i).takeWhile (fun c => !isBlank c) = mnemonicText i.op := by
  have hword : ∀ c ∈ mnemonicText i.op, (!isBlank c) = true := by simpa using mnemonicText_not_isBlank i.op
  rw [spell_eq, List.takeWhile_append_of_pos hword]
  cases i.operand? <;> simp [isBlank]

theorem trimFront_dropWhile_spell (i : Instr) :
    trimFront ((spell i).dropWhile fun c => !isBlank c) = operandField i.operand? := by
  have hword : ∀ c ∈ mnemonicText i.op, (!isBlank c) = true := by simpa using mnemonicText_not_isBlank i.op
  rw [spell_eq, List.dropWhile_append_of_pos hword]
  cases i.operand? with
  | none => rfl
  | some o =>
    have hspace : trimFront (' ' :: operandText o) = trimFront (operandText o) := rfl
    exact hspace.trans (trimFront_of_head? fun c hc => operandField_not_isBlank (some o) c (List.mem_of_mem_head? hc))

/-- A spelled line has no white space at either end: it begins with the mnemonic and ends with it or the operand text. -/
theorem trim_spell (i : Instr) : trim (spell i) = spell i := by
  refine trim_of_ends (fun c hc => mnemonicText_not_isBlank i.op c ?_) fun c hc => ?_
  · rw [spell_eq, List.head?_append_of_ne_nil _ (mnemonicText_ne_nil i.op)] at hc
    exact List.mem_of_mem_head? hc
  · rw [spell_eq] at hc
    cases ho : i.operand? with
    | none =>
      rw [ho, Option.elim_none, List.append_nil] at hc
      exact mnemonicText_not_isBlank i.op c (List.mem_of_mem_getLast? hc)
    | some o =>
      rw [ho, Option.elim_some, List.append_cons, List.getLast?_append_of_ne_nil _ (operandText_ne_nil ho)] at hc
      exact operandField_not_isBlank (some o) c (List.mem_of_mem_getLast? hc)

/-- The line that spells an instruction assembles to the instruction's bytes (R116). -/
theorem assembleLine_spell (i : Instr) : assembleLine (spell i) = .ok (encode i) := by
  have hne : spell i ≠ [] := by simp [spell_eq, mnemonicText_ne_nil]
  have hform : Form.toInstr? ⟨i.op, i.operand?⟩ = some i := toInstr?_form i
  simp only [assembleLine, trim_spell, takeWhile_spell, trimFront_dropWhile_spell, isMnemonicWord_mnemonicText,
    operandField_all_isOperandChar, mnemonicOf_mnemonicText, matchOperand_operandField, hform, if_neg hne, Bool.and_self,
    if_true]

end Sys2Proof.Assembler
end

section
/-! Proofs of 30_encoding.md: fetching an instruction placed at PC, and the round trip of R119. -/

namespace Sys2Proof.Machine

/-- A memory that holds `held` from `a` on gives it first of the bytes there. -/
theorem Memory.bytes_of_read (m : Memory) (held : List Byte) (a n : Nat) (hfit : a + held.length ≤ Config.memorySize)
    (h : ∀ k (hk : k < held.length), m.read (a + k) = held[k]) :
    m.bytes a (held.length + n) = held ++ m.bytes (a + held.length) n := by
  induction held generalizing a with
  | nil => simp
  | cons b held ih =>
    rw [List.length_cons] at hfit
    have hhead : m.read a = b := h 0 (Nat.succ_pos _)
    have htail := ih (a + 1) (by omega) fun k hk => by
      rw [Nat.add_right_comm]
      exact h (k + 1) (Nat.succ_lt_succ hk)
    rw [List.length_cons, Nat.add_right_comm, Memory.bytes, if_pos (by omega), hhead, htail, List.cons_append,
      Nat.add_right_comm a]
    rfl

theorem read_placeInstruction {s : State} (hinv : s.Inv) {bytes : List Byte}
    (hfit : s.pc.toNat + bytes.length ≤ Config.memorySize) (k : Nat) (hk : k < bytes.length) :
    (placeInstruction bytes s).mem.read (s.pc.toNat + k) = bytes[k] :=
  Memory.read_store_same hinv _ _ hfit k hk

/-- A placed instruction that ends below 0x10000 is the one fetched. -/
theorem fetch_placeInstruction {s : State} (hinv : s.Inv) {i : Instr}
    (hfit : s.pc.toNat + 1 + i.width ≤ Config.memorySize) : fetch (placeInstruction (encode i) s) = .ok i := by
  have hlen := i.operandBytes_length
  have hread := read_placeInstruction hinv (bytes := encode i) (by rw [encode_length]; omega)
  have hopcode : (placeInstruction (encode i) s).read s.pc = i.opcode := hread 0 (Nat.succ_pos _)
  have hbytes := Memory.bytes_of_read (placeInstruction (encode i) s).mem i.operandBytes (s.pc.toNat + 1) (2 - i.width)
    (by omega) fun k hk => by
      rw [Nat.add_assoc, Nat.add_comm 1]
      exact hread (k + 1) (Nat.succ_lt_succ hk)
  rw [hlen, Nat.add_sub_of_le i.width_le_two] at hbytes
  have hpc : (placeInstruction (encode i) s).pc = s.pc := rfl
  simp only [fetch, operandBytesAt, hpc, hopcode, hbytes, decodeFrom_operandBytes]

/-- A completed instruction advances PC by its length, with no wrap (41_execution_cycle.md R166). -/
theorem exec_pc_toNat {i : Instr} {s t : State} (h : exec i s = .next t) : t.pc.toNat = s.pc.toNat + 1 + i.width := by
  obtain ⟨body, hexec⟩ := exec_eq_complete i s
  rw [hexec] at h
  obtain ⟨hfit, u, -, rfl⟩ := complete_eq_next.1 h
  exact nextPc_toNat hfit

/-- Settles O9: the spelled line assembles to the instruction's encoding, which fetched where it is placed gives the instruction
back, and a completed instruction moves PC past its bytes. -/
theorem assembledLineRunsInOneStep : Obligations.AssembledLineRunsInOneStep := by
  intro i s hinv hfit
  have hfit' : s.pc.toNat + 1 + i.width ≤ Config.memorySize := Nat.le_succ_of_le hfit
  have hstep : step (placeInstruction (encode i) s) = exec i (placeInstruction (encode i) s) := by
    rw [step, fetch_placeInstruction hinv hfit']
  refine ⟨encode i, Assembler.assembleLine_spell i, encode_length i, hstep, fun t ht => ?_⟩
  rw [encode_length, ← Nat.add_assoc]
  exact (exec_pc_toNat (hstep.symm.trans ht) :)

end Sys2Proof.Machine
end

section
/-! Proofs of 40_addressing_modes.md: words and masked zero-page sums as exact arithmetic, and the modes that cannot fault
(R133 to R137). -/

namespace Sys2Proof

theorem Byte.toWord_eq_ofNat (b : Byte) : b.toWord = BitVec.ofNat 16 b.toNat := (BitVec.ofNat_toNat 16 b).symm

/-- The sum of two bytes as a zero-page address wraps inside the zero page (R135, R136). -/
theorem Byte.toWord_add_eq_ofNat (b c : Byte) : Byte.toWord (b + c) = BitVec.ofNat 16 ((b.toNat + c.toNat) % 0x100) := by
  rw [Byte.toWord_eq_ofNat, BitVec.toNat_add]

theorem Word.ofBytes_eq_ofNat (lo hi : Byte) : Word.ofBytes lo hi = BitVec.ofNat 16 (lo.toNat + 0x100 * hi.toNat) := by
  rw [← Word.ofBytes_toNat, BitVec.ofNat_toNat, BitVec.setWidth_eq]

namespace Machine

/-- The word at an address is the little-endian value of the byte there and the next (R14). -/
theorem State.readWord_eq_ofNat (s : State) (ea : Word) :
    s.readWord ea = BitVec.ofNat 16 ((s.read ea).toNat + 0x100 * (s.read (ea + 1)).toNat) :=
  Word.ofBytes_eq_ofNat _ _

/-- The absolute operand is the word of the two bytes after the opcode (R137). -/
theorem operandAt_absolute (s : State) :
    operandAt .absolute s =
      .absolute (BitVec.ofNat 16 ((s.read (s.pc + 1)).toNat + 0x100 * (s.read (s.pc + 2)).toNat)) := by
  have hnext : s.pc + 1 + 1 = s.pc + 2 := BitVec.add_assoc _ _ _
  rw [← hnext, ← State.readWord_eq_ofNat]
  rfl

/-- Settles O13: each mode's formula is the resolver's own, with its word or its masked sum in exact arithmetic. -/
theorem maskedAndPlainModesResolve : Obligations.MaskedAndPlainModesResolve := by
  intro site s _ b
  refine ⟨?immediate, ?dataByte, ?zeroPage, ?zeroPageX, ?zeroPageY, ?absolute⟩
  case immediate | dataByte => rfl
  case zeroPage => exact congrArg Except.ok (Byte.toWord_eq_ofNat b)
  case zeroPageX => exact congrArg Except.ok (Byte.toWord_add_eq_ofNat b s.x)
  case zeroPageY => exact congrArg Except.ok (Byte.toWord_add_eq_ofNat b s.y)
  case absolute => rw [operandAt_absolute]; rfl

end Machine
end Sys2Proof
end

section
/-! Proofs of 41_execution_cycle.md: every completed tick moves PC on (R166), so the rounds that `run` is given are always
enough, and `run` obeys the equations of its loop (R170, R171). -/

namespace Sys2Proof.Machine

/-- Settles O10: every completed instruction commits the PC of the shared cycle, whose sum has been checked not to wrap. -/
theorem completedInstructionAdvancesPc : Obligations.CompletedInstructionAdvancesPc := fun _ _ _ => exec_pc_toNat

theorem step_eq_next {s t : State} : step s = .next t ↔ ∃ i, fetch s = .ok i ∧ exec i s = .next t := by
  unfold step raise
  cases fetch s <;> simp

theorem step_pc_lt {s t : State} (h : step s = .next t) : s.pc.toNat < t.pc.toNat := by
  obtain ⟨i, -, hexec⟩ := step_eq_next.1 h
  have hpc := exec_pc_toNat hexec
  omega

theorem runFor_succ_of_halt {h : Byte} {s : State} (hread : s.read s.pc = h) (n : Nat) :
    runFor h (n + 1) s = .halted s := by
  rw [runFor, if_pos hread]

theorem runFor_succ_of_next {h : Byte} {s t : State} (hread : s.read s.pc ≠ h) (hstep : step s = .next t) (n : Nat) :
    runFor h (n + 1) s = runFor h n t := by
  rw [runFor, if_neg hread, hstep]

theorem runFor_succ_of_fault {h : Byte} {s : State} {f : Fault} (hread : s.read s.pc ≠ h) (hstep : step s = .fault f)
    (n : Nat) : runFor h (n + 1) s = .faulted s f := by
  rw [runFor, if_neg hread, hstep]

theorem runFor_succ_of_refused {h : Byte} {s : State} {r : Refusal} (hread : s.read s.pc ≠ h)
    (hstep : step s = .refused r) (n : Nat) : runFor h (n + 1) s = .refused s r := by
  rw [runFor, if_neg hread, hstep]

/-- Rounds beyond those from PC to the end of memory change nothing: PC rises in each round and stays below the end. -/
theorem runFor_eq_runFor (h : Byte) {n m : Nat} {s : State} (hn : Config.memorySize ≤ s.pc.toNat + n)
    (hm : Config.memorySize ≤ s.pc.toNat + m) : runFor h n s = runFor h m s := by
  have hpc : s.pc.toNat < Config.memorySize := s.pc.isLt
  induction n generalizing m s with
  | zero => omega
  | succ n ih =>
    cases m with
    | zero => omega
    | succ m =>
      by_cases hread : s.read s.pc = h
      · rw [runFor_succ_of_halt hread, runFor_succ_of_halt hread]
      cases hstep : step s with
      | next t =>
        have hlt := step_pc_lt hstep
        rw [runFor_succ_of_next hread hstep, runFor_succ_of_next hread hstep]
        exact ih (by omega) (by omega) t.pc.isLt
      | fault f => rw [runFor_succ_of_fault hread hstep, runFor_succ_of_fault hread hstep]
      | refused r => rw [runFor_succ_of_refused hread hstep, runFor_succ_of_refused hread hstep]

/-- `run` is `runFor` with any number of rounds that is enough (R171). -/
theorem run_eq_runFor (h : Byte) {n : Nat} {s : State} (hn : Config.memorySize ≤ s.pc.toNat + n) :
    run h s = runFor h n s :=
  runFor_eq_runFor h le_add_tsub hn

/-- Settles O57: with one round more than a whole memory of them, the first round's equation leaves enough for the rest. -/
theorem runUnfoldsTickByTick : Obligations.RunUnfoldsTickByTick := by
  intro h s
  have hfirst : run h s = runFor h (Config.memorySize + 1) s := run_eq_runFor h (by omega)
  rw [hfirst]
  refine ⟨fun hread => runFor_succ_of_halt hread _, fun hread => ⟨fun t hstep => ?next, fun f hstep => ?fault⟩⟩
  case next =>
    have hrest : run h t = runFor h Config.memorySize t := run_eq_runFor h (Nat.le_add_left _ _)
    rw [runFor_succ_of_next hread hstep, hrest]
  case fault => exact runFor_succ_of_fault hread hstep _

end Sys2Proof.Machine
end

section
/-! Proofs of 42_arith_logic.md, the layer over the dispatch table: the opcode bytes and modes that a mnemonic is bound to (R98,
R102). -/

namespace Sys2Proof

/-- The opcode bytes and modes of a mnemonic, in the order of the dispatch table. -/
def Op.slots (op : Op) : List (Byte × Option Mode) :=
  (dispatchTable.filter fun r => r.op = op).map fun r => (r.opcode, r.mode)

theorem Op.mem_slots {op : Op} {b : Byte} {m : Option Mode} : (b, m) ∈ op.slots ↔ slot b = some (op, m) := by
  simp only [slot_eq_some, Op.slots, List.mem_map, List.mem_filter, decide_eq_true_eq]
  constructor
  · rintro ⟨r, ⟨hr, rfl⟩, e⟩
    cases e
    exact hr
  · intro h
    exact ⟨_, ⟨h, rfl⟩, rfl⟩

/-- A list of a mnemonic's slots, in any order, says which slots bind it. -/
theorem slot_iff_mem_of_perm {op : Op} {l : List (Byte × Option Mode)} (h : op.slots.Perm l) (b : Byte)
    (m : Option Mode) : slot b = some (op, m) ↔ (b, m) ∈ l :=
  Op.mem_slots.symm.trans h.mem_iff

end Sys2Proof
end

section
/-! Proofs of 42_arith_logic.md, the layer over the cycle: what passes where no check of the cycle fails, and how an instruction
that reads a data byte then ends (41_execution_cycle.md R168). -/

namespace Sys2Proof.Machine

theorem pcAfter_eq_nextPc (i : Instr) (s : State) : pcAfter i s = nextPc i.width s := by
  rw [pcAfter, nextPc, Nat.add_assoc, BitVec.ofNat_add, BitVec.ofNat_toNat, BitVec.setWidth_eq]

theorem cycleFault_eq_none {i : Instr} {s : State} :
    cycleFault i s = none ↔
      fitsMemory i.width s = true ∧ ∀ o, i.operand? = some o → resolverFault (faultSite i s) o s = none := by
  unfold cycleFault fitsMemory
  split
  · next h => simp [Nat.not_le.2 h]
  · next h => cases i.operand? <;> simp [Nat.not_lt.1 h]

/-- Where no check of the cycle fails, the writes are committed with the PC after the instruction (R166). -/
theorem complete_ok_of_cycleFault_eq_none {i : Instr} {s : State} (h : cycleFault i s = none) (site : Site) (t : State) :
    complete site i.width s (.ok t) = .next (t.setPc (pcAfter i s)) :=
  complete_eq_next.2 ⟨(cycleFault_eq_none.1 h).1, t, rfl, by rw [pcAfter_eq_nextPc]⟩

theorem dataByte?_eq_toOption {i : Instr} {o : Operand} (ho : i.operand? = some o) (s : State) :
    dataByte? i s = (operandByte (faultSite i s) o s).toOption := by
  cases o with
  | immediate b => simp [dataByte?, ho, operandByte, Except.toOption]
  | _ =>
    simp only [dataByte?, effectiveAddress?, ho, operandByte]
    cases resolve (faultSite i s) _ s <;> rfl

theorem operandByte_isOk {site : Site} {o : Operand} {s : State} (h : resolverFault site o s = none) :
    ∃ m, operandByte site o s = .ok m := by
  cases o with
  | immediate b => exact ⟨b, rfl⟩
  | _ =>
    obtain ⟨ea, hea⟩ := resolve_isOk h
    exact ⟨s.read ea, by simp only [operandByte, hea]; rfl⟩

/-- Where no check of the cycle fails, an instruction with a mode has a data byte, and it is the one read. -/
theorem operandByte_of_cycleFault_eq_none {i : Instr} {o : Operand} {s : State} (ho : i.operand? = some o)
    (h : cycleFault i s = none) : ∃ m, dataByte? i s = some m ∧ operandByte (faultSite i s) o s = .ok m := by
  obtain ⟨m, hm⟩ := operandByte_isOk ((cycleFault_eq_none.1 h).2 o ho)
  exact ⟨m, by rw [dataByte?_eq_toOption ho, hm]; rfl, hm⟩

/-- An instruction that only computes its writes from the data byte completes with them where no check of the cycle fails. -/
theorem exec_eq_next_of_reads {i : Instr} {o : Operand} {s : State} (writes : Byte → State) (ho : i.operand? = some o)
    (hexec : exec i s = complete (faultSite i s) o.width s do
      let m ← operandByte (faultSite i s) o s
      return writes m)
    (h : cycleFault i s = none) :
    ∃ m, dataByte? i s = some m ∧ exec i s = .next ((writes m).setPc (pcAfter i s)) := by
  obtain ⟨m, hdata, hm⟩ := operandByte_of_cycleFault_eq_none ho h
  refine ⟨m, hdata, ?_⟩
  rw [hexec, hm, ← width_of_some ho]
  exact complete_ok_of_cycleFault_eq_none h _ _

end Sys2Proof.Machine
end

section
/-! Proofs of 42_arith_logic.md: the bitwise operations AND, EOR and ORA (R201 to R203). -/

namespace Sys2Proof.Machine

/-- Settles O19: AND's slots are the listed ones, and its cycle writes only A, from the data byte. -/
theorem andIsBitwiseAnd : Obligations.AndIsBitwiseAnd := by
  refine ⟨slot_iff_mem_of_perm (by decide), fun i s hop h => ?_⟩
  obtain ⟨o, ho, hexec⟩ := exec_AND i s hop
  exact exec_eq_next_of_reads (fun m => s.setA (s.a &&& m)) ho hexec h

/-- Settles O20: EOR's slots are the listed ones, and its cycle writes only A, from the data byte. -/
theorem eorIsBitwiseExclusiveOr : Obligations.EorIsBitwiseExclusiveOr := by
  refine ⟨slot_iff_mem_of_perm (by decide), fun i s hop h => ?_⟩
  obtain ⟨o, ho, hexec⟩ := exec_EOR i s hop
  exact exec_eq_next_of_reads (fun m => s.setA (s.a ^^^ m)) ho hexec h

/-- Settles O21: ORA's slots are the listed ones, and its cycle writes only A, from the data byte. -/
theorem oraIsBitwiseInclusiveOr : Obligations.OraIsBitwiseInclusiveOr := by
  refine ⟨slot_iff_mem_of_perm (by decide), fun i s hop h => ?_⟩
  obtain ⟨o, ho, hexec⟩ := exec_ORA i s hop
  exact exec_eq_next_of_reads (fun m => s.setA (s.a ||| m)) ho hexec h

end Sys2Proof.Machine
end

section
/-! Proofs of 43_shift_rotate.md, the layer over the byte operations: the results of LSR, ROL and ROR in exact arithmetic, and
which bit of the operand each bit of a rotation is (R221 to R223). -/

namespace Sys2Proof.Machine

theorem shiftRight_toNat (v : Byte) : (shiftRight v).toNat = v.toNat / 2 := by
  rw [shiftRight, BitVec.toNat_ushiftRight, Nat.shiftRight_eq_div_pow, pow_one]

/-- The bits moved up leave bit 0 free, so the OR with bit 7 is a sum. -/
theorem rotateLeft_toNat (v : Byte) : (rotateLeft v).toNat = 2 * v.toNat % 0x100 + v.toNat / 0x80 := by
  have hv := v.isLt
  have hup : v.toNat <<< 1 % 2 ^ 8 = 2 ^ 1 * (v.toNat % 0x80) := by rw [Nat.shiftLeft_eq]; omega
  have hbit7 : v.toNat >>> 7 = v.toNat / 0x80 := Nat.shiftRight_eq_div_pow _ _
  rw [rotateLeft, BitVec.toNat_or, BitVec.toNat_shiftLeft, BitVec.toNat_ushiftRight, hup, hbit7,
    ← Nat.two_pow_add_eq_or_of_lt (by omega)]
  omega

/-- The bits moved down leave bit 7 free, so the OR with bit 0 is a sum. -/
theorem rotateRight_toNat (v : Byte) : (rotateRight v).toNat = v.toNat / 2 + 0x80 * (v.toNat % 2) := by
  have hv := v.isLt
  have hdown : v.toNat >>> 1 = v.toNat / 2 := Nat.shiftRight_eq_div_pow _ _
  have hbit0 : (v.toNat &&& (0x01 : Byte).toNat) <<< 7 % 2 ^ 8 = 2 ^ 7 * (v.toNat % 2) := by
    have hand : v.toNat &&& (0x01 : Byte).toNat = v.toNat % 2 := Nat.and_one_is_mod _
    rw [hand, Nat.shiftLeft_eq]
    omega
  rw [rotateRight, BitVec.toNat_or, BitVec.toNat_shiftLeft, BitVec.toNat_and, BitVec.toNat_ushiftRight, hdown, hbit0,
    Nat.or_comm, ← Nat.two_pow_add_eq_or_of_lt (by omega), Nat.add_comm]

theorem shiftRight_eq_ofNat (v : Byte) : shiftRight v = BitVec.ofNat 8 (v.toNat / 2) := by
  rw [← shiftRight_toNat, BitVec.ofNat_toNat, BitVec.setWidth_eq]

theorem rotateLeft_eq_ofNat (v : Byte) : rotateLeft v = BitVec.ofNat 8 (2 * v.toNat % 0x100 + v.toNat / 0x80) := by
  rw [← rotateLeft_toNat, BitVec.ofNat_toNat, BitVec.setWidth_eq]

theorem rotateRight_eq_ofNat (v : Byte) : rotateRight v = BitVec.ofNat 8 (v.toNat / 2 + 0x80 * (v.toNat % 2)) := by
  rw [← rotateRight_toNat, BitVec.ofNat_toNat, BitVec.setWidth_eq]

/-- ROR undoes ROL: the bit that ROL puts lowest is the one that ROR puts back on top. -/
theorem rotateRight_rotateLeft (v : Byte) : rotateRight (rotateLeft v) = v := by
  apply BitVec.eq_of_toNat_eq
  have hv := v.isLt
  have hhalf : (2 * v.toNat % 0x100 + v.toNat / 0x80) / 2 = v.toNat % 0x80 := by omega
  have hbit0 : (2 * v.toNat % 0x100 + v.toNat / 0x80) % 2 = v.toNat / 0x80 := by omega
  rw [rotateRight_toNat, rotateLeft_toNat, hhalf, hbit0, Nat.mod_add_div]

/-- A bit after a left rotation is the one below it before, cyclically. -/
theorem getLsbD_rotateLeft (v : Byte) {k : Nat} (hk : k < 8) :
    (rotateLeft v).getLsbD k = v.getLsbD ((k + 7) % 8) := by
  have hrot : rotateLeft v = v.rotateLeft 1 := rfl
  rw [hrot, BitVec.getLsbD_rotateLeft]
  cases k with
  | zero => rfl
  | succ k =>
    have hbelow : (k + 1 + 7) % 8 = k := by omega
    simp [hbelow, hk]

theorem getLsbD_iterate_rotateLeft (n : Nat) (v : Byte) {k : Nat} (hk : k < 8) :
    (rotateLeft^[n] v).getLsbD k = v.getLsbD ((k + 7 * n) % 8) := by
  induction n generalizing k with
  | zero => rw [Nat.mul_zero, Nat.add_zero, Nat.mod_eq_of_lt hk, Function.iterate_zero_apply]
  | succ n ih =>
    have hindex : ((k + 7) % 8 + 7 * n) % 8 = (k + 7 * (n + 1)) % 8 := by omega
    rw [Function.iterate_succ_apply', getLsbD_rotateLeft _ hk, ih (Nat.mod_lt _ (by decide)), hindex]

/-- Eight left rotations bring every bit back to its own place. -/
theorem rotateLeft_iterate_eight (v : Byte) : rotateLeft^[8] v = v := by
  apply BitVec.eq_of_getLsbD_eq
  intro k hk
  rw [getLsbD_iterate_rotateLeft 8 v hk, Nat.add_mul_mod_self_right, Nat.mod_eq_of_lt hk]

end Sys2Proof.Machine
end

section
/-! Proofs of 43_shift_rotate.md, the layer over the cycle: where a shift's target is, and how a shift ends once its target is
resolved (R224). -/

namespace Sys2Proof.Machine

theorem operand?_eq_none_of_mode? {i : Instr} (h : i.mode? = none) : i.operand? = none := Option.map_eq_none_iff.1 h

theorem operand?_eq_some_of_mode? {i : Instr} (h : i.mode? ≠ none) : ∃ o, i.operand? = some o :=
  Option.ne_none_iff_exists'.1 fun ho => h (Option.map_eq_none_iff.2 ho)

theorem resolveTarget_of_mode?_eq_none {i : Instr} (h : i.mode? = none) (s : State) :
    resolveTarget (faultSite i s) i.operand? s = .ok .accumulator := by
  rw [operand?_eq_none_of_mode? h, resolveTarget_none]

/-- Where no check of the cycle fails, an instruction with a mode has an effective address, and it is the target. -/
theorem resolveTarget_of_mode?_ne_none {i : Instr} {s : State} (h : cycleFault i s = none) (hmode : i.mode? ≠ none) :
    ∃ ea, effectiveAddress? i s = some ea ∧ resolveTarget (faultSite i s) i.operand? s = .ok (.memory ea) := by
  obtain ⟨o, ho⟩ := operand?_eq_some_of_mode? hmode
  obtain ⟨ea, hea⟩ := resolve_isOk ((cycleFault_eq_none.1 h).2 o ho)
  refine ⟨ea, ?_, ?_⟩
  · simp only [effectiveAddress?, ho, hea]; rfl
  · rw [ho, resolveTarget_some, hea]; rfl

/-- With its target resolved, a shift is a cycle whose one write is the new value, back to the target. -/
theorem shift_of_resolveTarget {i : Instr} {s : State} {t : Target} (f : Site → Byte → Except Fault Byte)
    (ht : resolveTarget (faultSite i s) i.operand? s = .ok t) :
    shift f i.opcode i.operand? s =
      complete (faultSite i s) i.width s do
        let r ← f (faultSite i s) (s.readTarget t)
        return s.writeTarget r t := by
  have hsite : siteOf i.opcode s = faultSite i s := rfl
  simp only [shift, hsite, operandWidth_eq, ht]
  rfl

/-- A shift whose byte operation cannot fault completes where no check of the cycle fails: without a mode on A, with one on the
byte at EA. -/
theorem exec_eq_next_of_shifts {i : Instr} {s : State} (g : Byte → Byte)
    (hexec : exec i s = shift (fun _ v => .ok (g v)) i.opcode i.operand? s) (h : cycleFault i s = none) :
    (i.mode? = none → exec i s = .next ((s.setA (g s.a)).setPc (pcAfter i s))) ∧
    (i.mode? ≠ none → ∃ ea, effectiveAddress? i s = some ea ∧
      exec i s = .next ((s.write ea (g (s.read ea))).setPc (pcAfter i s))) := by
  have hends {t : Target} (ht : resolveTarget (faultSite i s) i.operand? s = .ok t) :
      exec i s = .next ((s.writeTarget (g (s.readTarget t)) t).setPc (pcAfter i s)) := by
    rw [hexec, shift_of_resolveTarget _ ht]
    exact complete_ok_of_cycleFault_eq_none h _ _
  refine ⟨fun hmode => hends (resolveTarget_of_mode?_eq_none hmode s), fun hmode => ?_⟩
  obtain ⟨ea, hea, ht⟩ := resolveTarget_of_mode?_ne_none h hmode
  exact ⟨ea, hea, hends ht⟩

end Sys2Proof.Machine
end

section
/-! Proofs of 43_shift_rotate.md: LSR, ROL and ROR (R221 to R223). -/

namespace Sys2Proof.Machine

/-- Settles O24: LSR's slots are the listed ones, and its cycle replaces the target by the shifted byte, its half. -/
theorem lsrShiftsRightWithZero : Obligations.LsrShiftsRightWithZero := by
  refine ⟨slot_iff_mem_of_perm (by decide), fun i s hop h => ?_⟩
  simp only [← shiftRight_eq_ofNat]
  exact exec_eq_next_of_shifts shiftRight (exec_LSR i s hop) h

/-- Settles O25: ROL's slots are the listed ones, its cycle replaces the target by the rotated byte, and eight rotations move each
bit once round. -/
theorem rolRotatesLeft : Obligations.RolRotatesLeft := by
  refine ⟨slot_iff_mem_of_perm (by decide), fun i s hop h => ?_⟩
  simp only [← rotateLeft_eq_ofNat]
  obtain ⟨hacc, hmem⟩ := exec_eq_next_of_shifts rotateLeft (exec_ROL i s hop) h
  exact ⟨hacc, hmem, rotateLeft_iterate_eight⟩

/-- Settles O26: ROR's slots are the listed ones, its cycle replaces the target by the rotated byte, and in exact arithmetic that
rotation undoes ROL's. -/
theorem rorRotatesRight : Obligations.RorRotatesRight := by
  refine ⟨slot_iff_mem_of_perm (by decide), fun i s hop h => ?_⟩
  simp only [← rotateRight_eq_ofNat]
  obtain ⟨hacc, hmem⟩ := exec_eq_next_of_shifts rotateRight (exec_ROR i s hop) h
  exact ⟨hacc, hmem, rotateRight_rotateLeft⟩

end Sys2Proof.Machine
end

section
/-! Proofs of 44_load_store.md, the layer over the modes: the modes a mnemonic lacks, the modes that cannot fault, and the
zero-page sums as effective addresses (40_addressing_modes.md R135, R136, R146). -/

namespace Sys2Proof.Machine

theorem mode?_ne_of_notMem_modes {i : Instr} {m : Option Mode} (h : m ∉ i.op.modes) : i.mode? ≠ m :=
  fun e => h (e ▸ mode?_mem_modes i)

/-- The modes for which the table of R146 has no fault. -/
def faultlessModes : List Mode := [.immediate, .zeroPage, .zeroPageX, .zeroPageY, .absolute]

theorem resolverFault_eq_none_of_mem {o : Operand} (h : o.mode ∈ faultlessModes) (site : Site) (s : State) :
    resolverFault site o s = none := by
  cases o with
  | immediate | zeroPage | zeroPageX | zeroPageY | absolute => rfl
  | absoluteX | absoluteY | relative | indirect | indexedIndirect | indirectIndexed =>
    exact absurd h (by simp [faultlessModes, Operand.mode])

/-- A mnemonic all of whose modes are faultless passes the cycle's checks wherever its instruction fits. -/
theorem cycleFault_eq_none_of_faultlessModes {i : Instr} {s : State}
    (hmodes : ∀ m ∈ i.op.modes, m ∈ faultlessModes.map some) (hfit : s.pc.toNat + 1 + i.width ≤ 0xFFFF) :
    cycleFault i s = none := by
  refine cycleFault_eq_none.2 ⟨decide_eq_true hfit, fun o ho => resolverFault_eq_none_of_mem ?_ _ _⟩
  have hmode : i.mode? = some o.mode := by rw [Instr.mode?, ho]; rfl
  have hmem := hmodes _ (mode?_mem_modes i)
  rwa [hmode, List.mem_map_of_injective (Option.some_injective _)] at hmem

theorem effectiveAddress?_eq_toOption {i : Instr} {o : Operand} (ho : i.operand? = some o) (s : State) :
    effectiveAddress? i s = (resolve (faultSite i s) o s).toOption := by
  rw [effectiveAddress?, ho]

theorem effectiveAddress?_zeroPageX {i : Instr} {b : Byte} (ho : i.operand? = some (.zeroPageX b)) (s : State) :
    effectiveAddress? i s = some (BitVec.ofNat 16 ((b.toNat + s.x.toNat) % 0x100)) := by
  rw [effectiveAddress?_eq_toOption ho, resolve, Byte.toWord_add_eq_ofNat]
  rfl

theorem effectiveAddress?_zeroPageY {i : Instr} {b : Byte} (ho : i.operand? = some (.zeroPageY b)) (s : State) :
    effectiveAddress? i s = some (BitVec.ofNat 16 ((b.toNat + s.y.toNat) % 0x100)) := by
  rw [effectiveAddress?_eq_toOption ho, resolve, Byte.toWord_add_eq_ofNat]
  rfl

end Sys2Proof.Machine
end

section
/-! Proofs of 44_load_store.md: the loads LDA, LDX and LDY (R240 to R242). -/

namespace Sys2Proof.Machine

/-- Settles O27: LDA's slots are the listed ones, and its cycle writes only A, the data byte. -/
theorem ldaLoadsA : Obligations.LdaLoadsA := by
  refine ⟨slot_iff_mem_of_perm (by decide), fun i s hop h => ?_⟩
  obtain ⟨o, ho, hexec⟩ := exec_LDA i s hop
  exact exec_eq_next_of_reads s.setA ho hexec h

/-- Settles O28: LDX's slots are the listed ones, none of them X-indexed, and its cycle writes only X, the data byte. -/
theorem ldxLoadsX : Obligations.LdxLoadsX := by
  refine ⟨slot_iff_mem_of_perm (by decide), fun i s hop => ⟨fun h => ?loads, ?zeroPageX, ?absoluteX, ?wraps⟩⟩
  case loads =>
    obtain ⟨o, ho, hexec⟩ := exec_LDX i s hop
    exact exec_eq_next_of_reads s.setX ho hexec h
  case zeroPageX | absoluteX => exact mode?_ne_of_notMem_modes (by rw [hop]; decide)
  case wraps =>
    rintro b rfl
    exact effectiveAddress?_zeroPageY rfl s

/-- Settles O29: LDY's slots are the listed ones, none of them Y-indexed, and its cycle writes only Y, the data byte. -/
theorem ldyLoadsY : Obligations.LdyLoadsY := by
  refine ⟨slot_iff_mem_of_perm (by decide), fun i s hop => ⟨fun h => ?loads, ?zeroPageY, ?absoluteY⟩⟩
  case loads =>
    obtain ⟨o, ho, hexec⟩ := exec_LDY i s hop
    exact exec_eq_next_of_reads s.setY ho hexec h
  case zeroPageY | absoluteY => exact mode?_ne_of_notMem_modes (by rw [hop]; decide)

end Sys2Proof.Machine
end

section
/-! Proofs of 44_load_store.md: the stores STA, STX and STY (R243 to R245). -/

namespace Sys2Proof.Machine

/-- Where no check of the cycle fails, an instruction with a mode has an effective address, and it is the one resolved. -/
theorem resolve_of_cycleFault_eq_none {i : Instr} {o : Operand} {s : State} (ho : i.operand? = some o)
    (h : cycleFault i s = none) : ∃ ea, effectiveAddress? i s = some ea ∧ resolve (faultSite i s) o s = .ok ea := by
  obtain ⟨ea, hea⟩ := resolve_isOk ((cycleFault_eq_none.1 h).2 o ho)
  exact ⟨ea, by rw [effectiveAddress?_eq_toOption ho, hea]; rfl, hea⟩

/-- A store completes where no check of the cycle fails, with its byte at the address resolved before the write; in canonical
memory that byte then reads back there (R243 to R245, R248). -/
theorem exec_eq_next_of_stores {i : Instr} {o : Operand} {s : State} {v : Byte} (ho : i.operand? = some o)
    (hexec : exec i s = storeByte v i.opcode o s) (h : cycleFault i s = none) :
    ∃ ea, effectiveAddress? i s = some ea ∧ exec i s = .next ((s.write ea v).setPc (pcAfter i s)) ∧
      (s.mem.wf = true → ∀ t, exec i s = .next t → t.read ea = v) := by
  obtain ⟨ea, haddr, hea⟩ := resolve_of_cycleFault_eq_none ho h
  have hsite : siteOf i.opcode s = faultSite i s := rfl
  have hnext : exec i s = .next ((s.write ea v).setPc (pcAfter i s)) := by
    rw [hexec, storeByte, hsite, hea, ← width_of_some ho]
    exact complete_ok_of_cycleFault_eq_none h _ _
  refine ⟨ea, haddr, hnext, fun hwf t ht => ?_⟩
  cases hnext.symm.trans ht
  exact State.read_write_same hwf ea v

/-- Settles O30: STA's slots are the listed ones, and its cycle writes only memory, the byte A at EA. -/
theorem staStoresA : Obligations.StaStoresA := by
  refine ⟨slot_iff_mem_of_perm (by decide), fun i s hop h => ?_⟩
  obtain ⟨o, ho, hexec⟩ := exec_STA i s hop
  exact exec_eq_next_of_stores ho hexec h

/-- Settles O31: STX's slots are the listed ones, all of faultless modes, and its cycle writes only memory, the byte X at EA. -/
theorem stxStoresX : Obligations.StxStoresX := by
  refine ⟨slot_iff_mem_of_perm (by decide), fun i s hop => ⟨fun h => ?stores, fun hfit => ?passes, ?wraps⟩⟩
  case stores =>
    obtain ⟨o, ho, hexec⟩ := exec_STX i s hop
    exact exec_eq_next_of_stores ho hexec h
  case passes => exact cycleFault_eq_none_of_faultlessModes (by rw [hop]; decide) hfit
  case wraps =>
    rintro b rfl
    exact effectiveAddress?_zeroPageY rfl s

/-- Settles O32: STY's slots are the listed ones, all of faultless modes, and its cycle writes only memory, the byte Y at EA. -/
theorem styStoresY : Obligations.StyStoresY := by
  refine ⟨slot_iff_mem_of_perm (by decide), fun i s hop => ⟨fun h => ?stores, fun hfit => ?passes, ?wraps⟩⟩
  case stores =>
    obtain ⟨o, ho, hexec⟩ := exec_STY i s hop
    exact exec_eq_next_of_stores ho hexec h
  case passes => exact cycleFault_eq_none_of_faultlessModes (by rw [hop]; decide) hfit
  case wraps =>
    rintro b rfl
    exact effectiveAddress?_zeroPageX rfl s

end Sys2Proof.Machine
end

section
/-! Proofs of 45_transfer.md, the layer over the cycle: a change of the state that the cycle does not see passes through it
(41_execution_cycle.md R168). -/

namespace Sys2Proof.Machine

/-- A change of the state that leaves PC alone passes from the state before and from the writes to the state after. -/
theorem complete_map {g : State → State} (hpc : ∀ u, (g u).pc = u.pc) (hset : ∀ u v, (g u).setPc v = g (u.setPc v))
    (site : Site) (w : Nat) (s : State) (body : Except Fault State) :
    complete site w (g s) (body.map g) = mapNext g (complete site w s body) := by
  have hfits : fitsMemory w (g s) = fitsMemory w s := by rw [fitsMemory, hpc, fitsMemory]
  have hnext : nextPc w (g s) = nextPc w s := by rw [nextPc, hpc, nextPc]
  unfold complete
  rw [hfits, hnext]
  split
  · cases body with
    | error f => rfl
    | ok u => exact congrArg _ (hset u _)
  · rfl

end Sys2Proof.Machine
end

section
/-! Proofs of 45_transfer.md: what the six transfers write and what they leave alone (R260 to R266). -/

namespace Sys2Proof.Machine

def transfers : List Instr := [.tax, .tay, .tsx, .txa, .txs, .tya]

/-- The one register write of each transfer (R260 to R265). -/
def transferred (i : Instr) (s : State) : State :=
  match i with
  | .tax => s.setX s.a
  | .tay => s.setY s.a
  | .tsx => s.setX s.sp
  | .txa => s.setA s.x
  | .txs => s.setSp s.x
  | .tya => s.setA s.y
  | _ => s

/-- A transfer is a cycle whose body is its one register write: it cannot fault. -/
theorem exec_of_mem_transfers {i : Instr} (hi : i ∈ transfers) (s : State) :
    exec i s = complete (siteOf i.opcode s) 0 s (.ok (transferred i s)) := by
  simp only [transfers, List.mem_cons, List.not_mem_nil, or_false] at hi
  rcases hi with rfl | rfl | rfl | rfl | rfl | rfl <;> rfl

theorem transferred_p (i : Instr) (s : State) : (transferred i s).p = s.p := by
  unfold transferred; split <;> rfl

theorem transferred_mem (i : Instr) (s : State) : (transferred i s).mem = s.mem := by
  unfold transferred; split <;> rfl

/-- A transfer's write leaves each register alone that is not its destination. -/
theorem transferred_frame (i : Instr) (s : State) :
    (i ∉ [.txa, .tya] → (transferred i s).a = s.a) ∧ (i ∉ [.tax, .tsx] → (transferred i s).x = s.x) ∧
    (i ≠ .tay → (transferred i s).y = s.y) ∧ (i ≠ .txs → (transferred i s).sp = s.sp) := by
  unfold transferred
  split <;> simp

theorem transferred_setMem (i : Instr) (s : State) (m : Memory) :
    transferred i (s.setMem m) = (transferred i s).setMem m := by
  unfold transferred; split <;> rfl

/-- Settles O47: a transfer's cycle commits its one register write with the PC, and that write neither reads nor changes
memory. -/
theorem transferFrame : Obligations.TransferFrame := by
  refine fun i s t hi => ⟨fun h => ?frame, fun m => ?memory⟩
  case frame =>
    rw [exec_of_mem_transfers hi] at h
    obtain ⟨-, u, hu, rfl⟩ := complete_eq_next.1 h
    cases hu
    exact ⟨transferred_p i s, fun a => congrArg (·.read a.toNat) (transferred_mem i s), transferred_frame i s⟩
  case memory =>
    change exec i (s.setMem m) = mapNext (·.setMem m) (exec i s)
    rw [exec_of_mem_transfers hi, exec_of_mem_transfers hi, transferred_setMem]
    exact complete_map (g := (·.setMem m)) (fun _ => rfl) (fun _ _ => rfl) _ 0 s (.ok (transferred i s))

end Sys2Proof.Machine
end

section
/-! Proofs of 46_inc_dec.md, the layer over the dispatch table, the cycle and the bytes: a mnemonic with one slot, an instruction
without an operand whose writes cannot fault (41_execution_cycle.md R166), and the wrapping decrement in exact arithmetic. -/

namespace Sys2Proof

/-- A mnemonic with a single slot is bound to its opcode byte and mode alone. -/
theorem slot_iff_of_slots_eq_singleton {op : Op} {b₀ : Byte} {m₀ : Option Mode} (h : op.slots = [(b₀, m₀)]) (b : Byte)
    (m : Option Mode) : slot b = some (op, m) ↔ b = b₀ ∧ m = m₀ := by
  rw [← Op.mem_slots, h, List.mem_singleton, Prod.mk.injEq]

/-- One less in a byte, where 0x00 wraps to 0xFF. -/
theorem Byte.sub_one_eq_ofNat (b : Byte) : b - 1 = BitVec.ofNat 8 ((b.toNat + 0xFF) % 0x100) := by
  apply BitVec.eq_of_toNat_eq
  rw [BitVec.toNat_sub, BitVec.toNat_ofNat, Nat.mod_mod, Nat.add_comm]
  rfl

namespace Machine

/-- An instruction without an operand passes the cycle's checks wherever the PC after its opcode byte is at most 0xFFFF
(41_execution_cycle.md R164). -/
theorem cycleFault_eq_none_of_operand?_eq_none {i : Instr} {s : State} (ho : i.operand? = none)
    (hfit : s.pc.toNat + 1 ≤ 0xFFFF) : cycleFault i s = none := by
  refine cycleFault_eq_none.2 ⟨?_, fun o hsome => ?_⟩
  · rw [width_of_none ho]; exact decide_eq_true hfit
  · rw [ho] at hsome; cases hsome

/-- An instruction without an operand whose writes cannot fault commits them with the PC after its opcode byte. -/
theorem exec_eq_next_of_writes {i : Instr} {s t : State} {site : Site} (ho : i.operand? = none)
    (hexec : exec i s = complete site 0 s (.ok t)) (hfit : s.pc.toNat + 1 ≤ 0xFFFF) :
    exec i s = .next (t.setPc (BitVec.ofNat 16 (s.pc.toNat + 1))) := by
  have hcycle := complete_ok_of_cycleFault_eq_none (cycleFault_eq_none_of_operand?_eq_none ho hfit) site t
  rw [pcAfter, width_of_none ho] at hcycle
  exact hexec.trans hcycle

end Machine
end Sys2Proof
end

section
/-! Proofs of 46_inc_dec.md: DEX and DEY (R284, R285). -/

namespace Sys2Proof.Machine

/-- Settles O37: DEX and DEY have one slot each, and the cycle of each writes only its register, one less in a byte that
wraps. -/
theorem dexDeyDecrementAndWrap : Obligations.DexDeyDecrementAndWrap := by
  refine ⟨slot_iff_of_slots_eq_singleton (by decide), slot_iff_of_slots_eq_singleton (by decide), fun s hfit => ?_⟩
  simp only [← Byte.sub_one_eq_ofNat]
  exact ⟨exec_eq_next_of_writes rfl (exec_DEX .dex s rfl) hfit, exec_eq_next_of_writes rfl (exec_DEY .dey s rfl) hfit⟩

end Sys2Proof.Machine
end

section
/-! Proofs of 30_encoding.md: instructions and bytes determine each other (R98, R103). -/

namespace Sys2Proof

/-- The bytes of a decoding are the instruction's own, followed by the rest: a populated slot with an operand of its mode is the
instruction with that opcode byte. -/
theorem eq_encode_of_decodeFrom {b : Byte} {bytes rest : List Byte} {i : Instr} (h : decodeFrom b bytes = .ok (i, rest)) :
    b :: bytes = encode i ++ rest := by
  obtain ⟨op, m, o, hslot, ho, hi⟩ := decodeFrom_eq_ok.1 h
  obtain ⟨hmode, hbytes⟩ := slotOperand_eq_some ho
  obtain ⟨j, hj, hopcode⟩ := slot_toInstr? hslot o hmode
  cases hi.symm.trans hj
  have hoperand : i.operand? = o := congrArg Form.operand (form_of_toInstr? hi)
  rw [encode, Instr.operandBytes_eq, hoperand, hopcode, List.cons_append, ← hbytes]

theorem opcode_of_decodeFrom {b : Byte} {bytes rest : List Byte} {i : Instr} (h : decodeFrom b bytes = .ok (i, rest)) :
    i.opcode = b :=
  (List.head_eq_of_cons_eq (eq_encode_of_decodeFrom h)).symm

/-- Settles O1: the slot of the instruction's opcode byte reads its operand bytes, whatever follows them. -/
theorem decodingAnEncodingGivesTheInstruction : Obligations.DecodingAnEncodingGivesTheInstruction :=
  decodeFrom_operandBytes

/-- Settles O2: a list that decodes has an opcode byte, and the decoding of the rest after it is of one instruction's bytes. -/
theorem encodingADecodedInstructionGivesItsBytes : Obligations.EncodingADecodedInstructionGivesItsBytes := by
  intro bytes i rest h
  cases bytes with
  | nil => cases h
  | cons b bytes => exact eq_encode_of_decodeFrom h

/-- Settles O6: each word is looked up in the dispatch table. -/
theorem writtenOutWordsDecode : Obligations.WrittenOutWordsDecode :=
  ⟨rfl, rfl, rfl, rfl, rfl, rfl, rfl, rfl⟩

end Sys2Proof
end

section
/-! Proofs of 41_execution_cycle.md: the fetch, clause by clause in the order of the cycle (R162 to R165). -/

namespace Sys2Proof.Machine

theorem fetch_of_decodeFrom {s : State} {i : Instr} {rest : List Byte}
    (h : decodeFrom (s.read s.pc) (operandBytesAt s) = .ok (i, rest)) : fetch s = .ok i := by
  simp only [fetch, h]

theorem step_of_decodeFrom {s : State} {i : Instr} {rest : List Byte}
    (h : decodeFrom (s.read s.pc) (operandBytesAt s) = .ok (i, rest)) : step s = exec i s := by
  rw [step, fetch_of_decodeFrom h]

/-- A fetched instruction was decoded at PC, so it has the opcode byte there. -/
theorem opcode_of_fetch {s : State} {i : Instr} (h : fetch s = .ok i) : i.opcode = s.read s.pc := by
  simp only [fetch] at h
  split at h
  · next j rest hj => cases h; exact opcode_of_decodeFrom hj
  all_goals cases h

/-- Settles O7: `decode` of a first byte is the decoding that the fetch makes. -/
theorem stepRunsTheDecodedInstruction : Obligations.StepRunsTheDecodedInstruction := fun _ i _ h =>
  ⟨Instr_wellFormed i, step_of_decodeFrom h⟩

/-! ## The operand bytes at PC + 1 -/

theorem Memory.bytes_succ (m : Memory) {a : Nat} (h : a < Config.memorySize) (n : Nat) :
    m.bytes a (n + 1) = m.read a :: m.bytes (a + 1) n := by
  rw [Memory.bytes, if_pos h]

/-- No byte lies past 0xFFFF (20_memory.md R70). -/
theorem Memory.length_bytes_le (m : Memory) (a n : Nat) : (m.bytes a n).length ≤ Config.memorySize - a := by
  induction n generalizing a with
  | zero => exact Nat.zero_le _
  | succ n ih =>
    rw [Memory.bytes]
    split
    · have htail := ih (a + 1)
      rw [List.length_cons]
      omega
    · exact Nat.zero_le _

theorem operandBytesAt_of_one {s : State} (h : s.pc.toNat + 1 < Config.memorySize) :
    ∃ rest, operandBytesAt s = s.read (s.pc + 1) :: rest := by
  have hnext : (s.pc + 1).toNat = s.pc.toNat + 1 := BitVec.toNat_add_of_lt h
  rw [operandBytesAt, Memory.bytes_succ _ h, ← hnext]
  exact ⟨_, rfl⟩

theorem operandBytesAt_of_two {s : State} (h : s.pc.toNat + 2 < Config.memorySize) :
    operandBytesAt s = [s.read (s.pc + 1), s.read (s.pc + 1 + 1)] := by
  have hnext : (s.pc + 1).toNat = s.pc.toNat + 1 := BitVec.toNat_add_of_lt (Nat.lt_of_succ_lt h)
  have hafter : (s.pc + 1 + 1).toNat = s.pc.toNat + 1 + 1 := by
    rw [← hnext]
    exact BitVec.toNat_add_of_lt (by rw [hnext]; exact h)
  rw [operandBytesAt, Memory.bytes_succ _ (Nat.lt_of_succ_lt h), Memory.bytes_succ _ h, ← hafter, ← hnext]
  rfl

/-- Where the operand bytes of a mode lie in memory, the fetch reads the mode's operand (R165). -/
theorem slotOperand_operandBytesAt {m : Option Mode} {s : State} (h : s.pc.toNat + modeWidth m < Config.memorySize) :
    ∃ rest, slotOperand m (operandBytesAt s) = some (m.map (operandAt · s), rest) := by
  cases m with
  | none => exact ⟨_, rfl⟩
  | some m =>
    cases m with
    | absolute | absoluteX | absoluteY | indirect =>
      rw [operandBytesAt_of_two h]
      exact ⟨_, rfl⟩
    | immediate | zeroPage | zeroPageX | zeroPageY | relative | indexedIndirect | indirectIndexed =>
      obtain ⟨rest, hbytes⟩ := operandBytesAt_of_one h
      rw [hbytes]
      exact ⟨_, rfl⟩

/-- Where the operand bytes of a mode would lie past 0xFFFF, there is no operand (R164). -/
theorem slotOperand_operandBytesAt_eq_none {m : Option Mode} {s : State}
    (h : Config.memorySize ≤ s.pc.toNat + modeWidth m) : slotOperand m (operandBytesAt s) = none := by
  have hpc : s.pc.toNat < Config.memorySize := s.pc.isLt
  have havail := Memory.length_bytes_le s.mem (s.pc.toNat + 1) 2
  by_contra hne
  obtain ⟨⟨o, rest⟩, ho⟩ := Option.ne_none_iff_exists'.1 hne
  obtain ⟨hmode, hbytes⟩ := slotOperand_eq_some ho
  have hlen := congrArg List.length hbytes
  rw [operandBytesAt, List.length_append, Operand.length_elim_bytes, hmode] at hlen
  omega

/-- Where the slot's operand bytes lie in memory, the fetch finds the instruction of the slot and the mode's operand. -/
theorem decodeFrom_operandBytesAt {s : State} {op : Op} {m : Option Mode} (hslot : slot (s.read s.pc) = some (op, m))
    (h : s.pc.toNat + modeWidth m < Config.memorySize) :
    ∃ i rest, decodeFrom (s.read s.pc) (operandBytesAt s) = .ok (i, rest) ∧ i.op = op ∧
      i.operand? = m.map (operandAt · s) := by
  have hmode : (m.map (operandAt · s)).map Operand.mode = m := by
    cases m with
    | none => rfl
    | some m => cases m <;> rfl
  obtain ⟨rest, ho⟩ := slotOperand_operandBytesAt h
  obtain ⟨i, hi, -⟩ := slot_toInstr? hslot _ hmode
  have hform := form_of_toInstr? hi
  exact ⟨i, rest, decodeFrom_eq_ok.2 ⟨op, m, _, hslot, ho, hi⟩, congrArg Form.op hform, congrArg Form.operand hform⟩

/-- An instruction that ends past 0xFFFF is PCOverflow (41_execution_cycle.md R164). -/
theorem exec_of_not_fits {i : Instr} {s : State} (h : 0xFFFF < s.pc.toNat + 1 + i.width) :
    exec i s = .fault (.pcOverflow (faultSite i s)) := by
  obtain ⟨body, hexec⟩ := exec_eq_complete i s
  rw [hexec]
  exact complete_eq_fault.2 (.inl ⟨decide_eq_false (Nat.not_le.2 h), rfl⟩)

/-- The PCOverflow of the cycle is made in one of two places: by the fetch where an operand byte is missing, and by the
instruction where its bytes just fit (log entry 10). -/
theorem step_of_not_fits {s : State} {op : Op} {m : Option Mode} (hslot : slot (s.read s.pc) = some (op, m))
    (h : 0xFFFF < s.pc.toNat + 1 + modeWidth m) : step s = .fault (.pcOverflow ⟨s.pc, s.read s.pc⟩) := by
  by_cases hfit : s.pc.toNat + modeWidth m < Config.memorySize
  case pos =>
    obtain ⟨i, rest, hdecode, -, -⟩ := decodeFrom_operandBytesAt hslot hfit
    have hopcode := opcode_of_decodeFrom hdecode
    have hmode : i.mode? = m := by
      have hslot' := slot_opcode i
      rw [hopcode, hslot] at hslot'
      cases hslot'
      rfl
    rw [step_of_decodeFrom hdecode, exec_of_not_fits (by rwa [Instr.width, hmode]), faultSite, hopcode]
  case neg =>
    have hnone := slotOperand_operandBytesAt_eq_none (Nat.not_lt.1 hfit)
    simp only [step, fetch, decodeFrom, hslot, hnone]
    rfl

/-- Settles O8: the three clauses are the three answers of the decoder at PC. -/
theorem stepFollowsTheFetchOrder : Obligations.StepFollowsTheFetchOrder := by
  refine fun s => ⟨step_of_slot_none, fun op m hslot h => step_of_not_fits hslot h, fun op m hslot h => ?_⟩
  obtain ⟨i, rest, hdecode, hop, hoperand⟩ := decodeFrom_operandBytesAt hslot (by rw [Config.memorySize]; omega)
  exact ⟨i, opcode_of_decodeFrom hdecode, hop, hoperand, step_of_decodeFrom hdecode⟩

end Sys2Proof.Machine
end

section
/-! Proofs of 41_execution_cycle.md, the layer over dispatch: the semantic operations are of five kinds, and all of a kind run in
a cycle of one form (R168). Proofs over all instructions split by kind, and those about one operation by its own byte. -/

namespace Sys2Proof.Machine

/-- What an operation does with its operand: it reads a data byte into a register, replaces a target's byte, moves a byte between
registers, or pushes or pulls one. -/
inductive OpKind where
  | reads | replaces | moves | pushes | pulls

def opKind : Op → OpKind
  | .ADC | .AND | .EOR | .ORA | .SBC | .LDA | .LDX | .LDY => .reads
  | .ASL | .LSR | .ROL | .ROR | .STA | .STX | .STY | .INC | .DEC => .replaces
  | .TAX | .TAY | .TSX | .TXA | .TXS | .TYA | .INX | .INY | .DEX | .DEY => .moves
  | .PHA | .PHP => .pushes
  | .PLA | .PLP => .pulls

/-- What an operation that reads makes of the data byte (42_arith_logic.md, 44_load_store.md). -/
def readResult (op : Op) (site : Site) (s : State) (m : Byte) : Except Fault Byte :=
  match op with
  | .ADC => fit8 site ((s.a.toNat : Int) + m.toNat)
  | .SBC => fit8 site ((s.a.toNat : Int) - m.toNat)
  | .AND => .ok (s.a &&& m)
  | .EOR => .ok (s.a ^^^ m)
  | .ORA => .ok (s.a ||| m)
  | _ => .ok m

/-- What an operation that replaces puts in the place of its target's byte (43_shift_rotate.md, 44_load_store.md,
46_inc_dec.md). -/
def replaceResult (op : Op) (site : Site) (s : State) (v : Byte) : Except Fault Byte :=
  match op with
  | .ASL => shiftLeft site v
  | .LSR => .ok (shiftRight v)
  | .ROL => .ok (rotateLeft v)
  | .ROR => .ok (rotateRight v)
  | .INC => fit8 site ((v.toNat : Int) + 1)
  | .DEC => fit8 site ((v.toNat : Int) - 1)
  | .STX => .ok s.x
  | .STY => .ok s.y
  | _ => .ok s.a

/-- The byte of an operation that moves (45_transfer.md, 46_inc_dec.md). -/
def moveResult (op : Op) (site : Site) (s : State) : Except Fault Byte :=
  match op with
  | .INX => fit8 site ((s.x.toNat : Int) + 1)
  | .INY => fit8 site ((s.y.toNat : Int) + 1)
  | .DEX => .ok (s.x - 1)
  | .DEY => .ok (s.y - 1)
  | .TSX => .ok s.sp
  | .TXA | .TXS => .ok s.x
  | .TYA => .ok s.y
  | _ => .ok s.a

/-- The byte of an operation that pushes (47_stack.md R304, R305). -/
def pushedByte (op : Op) (s : State) : Byte :=
  match op with
  | .PHP => statusPayload s
  | _ => s.a

/-- The write of an operation's one destination register. -/
def State.setDest (op : Op) (v : Byte) (s : State) : State :=
  match op with
  | .LDX | .TAX | .TSX | .INX | .DEX => s.setX v
  | .LDY | .TAY | .INY | .DEY => s.setY v
  | .TXS => s.setSp v
  | .PLP => s.setP v
  | _ => s.setA v

/-! ## The cycle of each kind -/

theorem perform?_of_reads {op : Op} (h : opKind op = .reads) (opcode : Byte) (o : Option Operand) (s : State) :
    perform? op opcode o s = o.map fun o => complete ⟨s.pc, opcode⟩ o.width s do
      let m ← operandByte ⟨s.pc, opcode⟩ o s
      let r ← readResult op ⟨s.pc, opcode⟩ s m
      return s.setDest op r := by
  cases op <;> cases h <;> rfl

theorem exec_of_reads {i : Instr} (h : opKind i.op = .reads) (s : State) :
    ∃ o, i.operand? = some o ∧ exec i s = complete (faultSite i s) o.width s do
      let m ← operandByte (faultSite i s) o s
      let r ← readResult i.op (faultSite i s) s m
      return s.setDest i.op r := by
  simpa [perform?_of_reads h, faultSite, eq_comm] using perform?_eq_exec i s

/-- A target is resolved as the operand is, then read and written as the address resolved. -/
theorem resolveTarget_bind (site : Site) (o : Operand) (s : State) (f : Byte → Except Fault Byte) :
    (do
      let t ← resolveTarget site (some o) s
      let r ← f (s.readTarget t)
      return s.writeTarget r t : Except Fault State) =
    do
      let ea ← resolve site o s
      let r ← f (s.read ea)
      return s.write ea r := by
  rw [resolveTarget_some]
  cases resolve site o s <;> rfl

theorem eq_complete_of_replaces {op : Op} (h : opKind op = .replaces) {opcode : Byte} {o : Option Operand} {s : State}
    {r : Result} (hr : perform? op opcode o s = some r) :
    r = complete ⟨s.pc, opcode⟩ (operandWidth o) s do
      let t ← resolveTarget ⟨s.pc, opcode⟩ o s
      let v ← replaceResult op ⟨s.pc, opcode⟩ s (s.readTarget t)
      return s.writeTarget v t := by
  cases op with
  | ASL | LSR | ROL | ROR => cases hr; rfl
  | STA | STX | STY | INC | DEC =>
    cases o with
    | none => cases hr
    | some o => rw [resolveTarget_bind]; cases hr; rfl
  | _ => cases h

theorem exec_of_replaces {i : Instr} (h : opKind i.op = .replaces) (s : State) :
    exec i s = complete (faultSite i s) i.width s do
      let t ← resolveTarget (faultSite i s) i.operand? s
      let v ← replaceResult i.op (faultSite i s) s (s.readTarget t)
      return s.writeTarget v t := by
  rw [← operandWidth_eq]
  exact eq_complete_of_replaces h (perform?_eq_exec i s)

theorem perform?_of_moves {op : Op} (h : opKind op = .moves) (opcode : Byte) (o : Option Operand) (s : State) :
    perform? op opcode o s = some (complete ⟨s.pc, opcode⟩ 0 s do
      let r ← moveResult op ⟨s.pc, opcode⟩ s
      return s.setDest op r) := by
  cases op <;> cases h <;> rfl

theorem perform?_of_pushes {op : Op} (h : opKind op = .pushes) (opcode : Byte) (o : Option Operand) (s : State) :
    perform? op opcode o s = some (complete ⟨s.pc, opcode⟩ 0 s (push ⟨s.pc, opcode⟩ (pushedByte op s) s)) := by
  cases op <;> cases h <;> rfl

theorem perform?_of_pulls {op : Op} (h : opKind op = .pulls) (opcode : Byte) (o : Option Operand) (s : State) :
    perform? op opcode o s = some (complete ⟨s.pc, opcode⟩ 0 s do
      let (v, t) ← pop ⟨s.pc, opcode⟩ s
      return t.setDest op v) := by
  cases op <;> cases h <;> rfl

theorem exec_eq_of_perform? {i : Instr} {s : State} {r : Result} (h : perform? i.op i.opcode i.operand? s = some r) :
    exec i s = r :=
  Option.some.inj ((perform?_eq_exec i s).symm.trans h)

theorem exec_of_moves {i : Instr} (h : opKind i.op = .moves) (s : State) :
    exec i s = complete (faultSite i s) 0 s do
      let r ← moveResult i.op (faultSite i s) s
      return s.setDest i.op r :=
  exec_eq_of_perform? (perform?_of_moves h _ _ s)

theorem exec_of_pushes {i : Instr} (h : opKind i.op = .pushes) (s : State) :
    exec i s = complete (faultSite i s) 0 s (push (faultSite i s) (pushedByte i.op s) s) :=
  exec_eq_of_perform? (perform?_of_pushes h _ _ s)

theorem exec_of_pulls {i : Instr} (h : opKind i.op = .pulls) (s : State) :
    exec i s = complete (faultSite i s) 0 s do
      let (v, t) ← pop (faultSite i s) s
      return t.setDest i.op v :=
  exec_eq_of_perform? (perform?_of_pulls h _ _ s)

/-- Only the operations that read or replace have a mode (R102). -/
theorem modes_of_opKind {op : Op} {kind : OpKind} (h : opKind op = kind) (hreads : kind ≠ .reads)
    (hreplaces : kind ≠ .replaces) : op.modes = [none] := by
  cases op with
  | ADC | AND | EOR | ORA | SBC | LDA | LDX | LDY => exact absurd h.symm hreads
  | ASL | LSR | ROL | ROR | STA | STX | STY | INC | DEC => exact absurd h.symm hreplaces
  | _ => rfl

theorem operand?_eq_none_of_opKind {i : Instr} {kind : OpKind} (h : opKind i.op = kind) (hreads : kind ≠ .reads)
    (hreplaces : kind ≠ .replaces) : i.operand? = none := by
  have hmem := mode?_mem_modes i
  rw [modes_of_opKind h hreads hreplaces, List.mem_singleton] at hmem
  exact Option.map_eq_none_iff.1 hmem

end Sys2Proof.Machine
end

section
/-! Proofs of 41_execution_cycle.md, the layer over the kinds of operation: what a completed instruction of each kind has written
(R166), and so what any instruction can do to memory (20_memory.md R64). -/

namespace Sys2Proof.Machine

theorem bind_eq_ok {ε α β : Type} {x : Except ε α} {f : α → Except ε β} {b : β} :
    x >>= f = .ok b ↔ ∃ a, x = .ok a ∧ f a = .ok b := by
  cases x with
  | error e => exact ⟨fun h => (nomatch h), fun ⟨_, h, _⟩ => (nomatch h)⟩
  | ok a => exact ⟨fun h => ⟨a, rfl, h⟩, fun ⟨_, h, hb⟩ => by cases h; exact hb⟩

theorem State.setDest_mem (op : Op) (v : Byte) (s : State) : (s.setDest op v).mem = s.mem := by
  unfold State.setDest; split <;> rfl

theorem State.setDest_p {op : Op} (h : op ≠ .PLP) (v : Byte) (s : State) : (s.setDest op v).p = s.p := by
  unfold State.setDest
  split
  case h_11 => exact absurd rfl h
  all_goals rfl

/-- Memory is the same wherever it is the same list. -/
theorem State.read_congr {s t : State} (h : t.mem = s.mem) (a : Word) : t.read a = s.read a :=
  congrArg (Memory.read · a.toNat) h

/-! ## The state after an instruction of each kind -/

variable {i : Instr} {s t : State}

theorem next_of_reads (h : opKind i.op = .reads) (hnext : exec i s = .next t) :
    ∃ v pc, t = (s.setDest i.op v).setPc pc := by
  obtain ⟨o, -, hexec⟩ := exec_of_reads h s
  obtain ⟨-, u, hbody, rfl⟩ := complete_eq_next.1 (hexec.symm.trans hnext)
  obtain ⟨m, -, hm⟩ := bind_eq_ok.1 hbody
  obtain ⟨v, -, hv⟩ := bind_eq_ok.1 hm
  cases hv
  exact ⟨v, _, rfl⟩

theorem next_of_replaces (h : opKind i.op = .replaces) (hnext : exec i s = .next t) :
    ∃ target v pc, resolveTarget (faultSite i s) i.operand? s = .ok target ∧ t = (s.writeTarget v target).setPc pc := by
  obtain ⟨-, u, hbody, rfl⟩ := complete_eq_next.1 ((exec_of_replaces h s).symm.trans hnext)
  obtain ⟨target, htarget, hr⟩ := bind_eq_ok.1 hbody
  obtain ⟨v, -, hv⟩ := bind_eq_ok.1 hr
  cases hv
  exact ⟨target, v, _, htarget, rfl⟩

theorem next_of_moves (h : opKind i.op = .moves) (hnext : exec i s = .next t) :
    ∃ v pc, t = (s.setDest i.op v).setPc pc := by
  obtain ⟨-, u, hbody, rfl⟩ := complete_eq_next.1 ((exec_of_moves h s).symm.trans hnext)
  obtain ⟨v, -, hv⟩ := bind_eq_ok.1 hbody
  cases hv
  exact ⟨v, _, rfl⟩

theorem next_of_pushes (h : opKind i.op = .pushes) (hnext : exec i s = .next t) :
    ∃ v sp pc, t = ((s.write (stackAddress s.sp) v).setSp sp).setPc pc := by
  obtain ⟨-, u, hbody, rfl⟩ := complete_eq_next.1 ((exec_of_pushes h s).symm.trans hnext)
  obtain ⟨-, rfl⟩ := push_eq_ok.1 hbody
  exact ⟨_, _, _, rfl⟩

theorem next_of_pulls (h : opKind i.op = .pulls) (hnext : exec i s = .next t) :
    ∃ v sp pc, t = ((s.setSp sp).setDest i.op v).setPc pc := by
  obtain ⟨-, u, hbody, rfl⟩ := complete_eq_next.1 ((exec_of_pulls h s).symm.trans hnext)
  obtain ⟨⟨v, u'⟩, hpop, hv⟩ := bind_eq_ok.1 hbody
  obtain ⟨-, -, rfl⟩ := pop_eq_ok.1 hpop
  cases hv
  exact ⟨v, _, _, rfl⟩

/-- All an instruction can do to memory is to write one byte. -/
theorem exec_mem (hnext : exec i s = .next t) : t.mem = s.mem ∨ ∃ (ea : Word) (v : Byte), t.mem = s.mem.write ea.toNat v := by
  cases h : opKind i.op with
  | reads =>
    obtain ⟨v, pc, rfl⟩ := next_of_reads h hnext
    exact .inl (State.setDest_mem _ _ _)
  | replaces =>
    obtain ⟨target, v, pc, -, rfl⟩ := next_of_replaces h hnext
    cases target with
    | accumulator => exact .inl rfl
    | memory ea => exact .inr ⟨ea, v, rfl⟩
  | moves =>
    obtain ⟨v, pc, rfl⟩ := next_of_moves h hnext
    exact .inl (State.setDest_mem _ _ _)
  | pushes =>
    obtain ⟨v, sp, pc, rfl⟩ := next_of_pushes h hnext
    exact .inr ⟨_, v, rfl⟩
  | pulls =>
    obtain ⟨v, sp, pc, rfl⟩ := next_of_pulls h hnext
    exact .inl (State.setDest_mem _ _ _)

end Sys2Proof.Machine
end

section
/-! Proofs of 10_state.md section 5 and 20_memory.md: the canonical form, and that an instruction changes at most one byte. -/

namespace Sys2Proof.Machine

/-- Settles O50: a next state is an instruction's, which writes at most one byte, and a write keeps the canonical form. -/
theorem stepKeepsMemoryCanonical : Obligations.StepKeepsMemoryCanonical := by
  intro s t hinv hstep
  obtain ⟨i, -, hexec⟩ := step_eq_next.1 hstep
  unfold State.Inv at hinv ⊢
  rcases exec_mem hexec with hmem | ⟨ea, v, hmem⟩
  · rwa [hmem]
  · rw [hmem]
    exact Memory.wf_write hinv ea.isLt v

/-- Settles O51: the empty list is in canonical form. -/
theorem resetMemoryIsCanonical : Obligations.ResetMemoryIsCanonical := rfl

/-- Settles O53: the reset state holds the spec's values, and its memory lists nothing. -/
theorem resetState : Obligations.ResetState := ⟨rfl, rfl, rfl, rfl, rfl, rfl, fun a => Memory.read_nil a.toNat⟩

/-- Settles O54: an address that reads differently is the one written. -/
theorem instructionWritesAtMostOneByte : Obligations.InstructionWritesAtMostOneByte := by
  intro i s t hexec a b ha hb
  rcases exec_mem hexec with hmem | ⟨ea, v, hmem⟩
  · exact absurd (State.read_congr hmem a) ha
  · have hwritten : ∀ c : Word, t.read c ≠ s.read c → c = ea := fun c hc => by
      by_contra hne
      exact hc ((State.read_congr (s := s.write ea v) hmem c).trans (State.read_write_other s v hne))
    rw [hwritten a ha, hwritten b hb]

/-- A canonical list that reads as another at its first address does not begin above it. -/
theorem Memory.not_wfFrom_succ {lo k : Nat} {u : Byte} {rest n : Memory} (hm : Memory.wfFrom lo ((k, u) :: rest) = true)
    (h : Memory.read ((k, u) :: rest) k = n.read k) : ¬n.wfFrom (k + 1) = true := by
  intro hn
  obtain ⟨-, -, hu, -⟩ := Memory.wfFrom_entry.1 hm
  rw [Memory.read_below hn (Nat.lt_succ_self k), Memory.read_entry, if_pos rfl] at h
  exact hu h

/-- Canonical lists that read the same begin with the same entry, and so on from there. -/
theorem Memory.eq_of_read_eq {lo : Nat} {m n : Memory} (hm : m.wfFrom lo = true) (hn : n.wfFrom lo = true)
    (h : ∀ a, a < Config.memorySize → m.read a = n.read a) : m = n := by
  induction m generalizing lo n with
  | nil =>
    cases n with
    | nil => rfl
    | cons e n =>
      obtain ⟨-, hl, -, -⟩ := Memory.wfFrom_entry.1 hn
      exact absurd rfl (Memory.not_wfFrom_succ hn (h e.1 hl).symm)
  | cons e m ih =>
    obtain ⟨k, u⟩ := e
    obtain ⟨-, hk, hu, hm'⟩ := Memory.wfFrom_entry.1 hm
    cases n with
    | nil => exact absurd rfl (Memory.not_wfFrom_succ hm (h k hk))
    | cons e n =>
      obtain ⟨l, v⟩ := e
      obtain ⟨-, hl, hv, hn'⟩ := Memory.wfFrom_entry.1 hn
      have hlk : l ≤ k := Nat.not_lt.1 fun hlt =>
        Memory.not_wfFrom_succ hm (h k hk) (Memory.wfFrom_entry.2 ⟨hlt, hl, hv, hn'⟩)
      have hkl : k ≤ l := Nat.not_lt.1 fun hlt =>
        Memory.not_wfFrom_succ hn (h l hl).symm (Memory.wfFrom_entry.2 ⟨hlt, hk, hu, hm'⟩)
      obtain rfl : k = l := Nat.le_antisymm hkl hlk
      have huv : u = v := by simpa [Memory.read_entry] using h k hk
      have htail : ∀ a, a < Config.memorySize → Memory.read m a = Memory.read n a := fun a ha => by
        by_cases hka : k = a
        · have hbelow : a < k + 1 := hka ▸ Nat.lt_succ_self k
          rw [Memory.read_below hm' hbelow, Memory.read_below hn' hbelow]
        · simpa [Memory.read_entry, hka] using h a ha
      rw [huv, ih hm' hn' htail]

/-- Settles O52: both lists are canonical from address 0 on. -/
theorem canonicalMemoryIsDeterminedByItsBytes : Obligations.CanonicalMemoryIsDeterminedByItsBytes :=
  fun _ _ hm hn h => Memory.eq_of_read_eq hm hn h

end Sys2Proof.Machine
end

section
/-! Proofs of the family-wide frames: what a completed instruction leaves alone (42_arith_logic.md, 43_shift_rotate.md,
44_load_store.md, 46_inc_dec.md, 47_stack.md). -/

namespace Sys2Proof.Machine

/-- Settles O42: these operations read, and all write A. -/
theorem arithmeticAndLogicFrame : Obligations.ArithmeticAndLogicFrame := by
  intro i s t hop hexec
  have hops : ∀ op ∈ [Op.ADC, .AND, .EOR, .ORA, .SBC], opKind op = .reads ∧ ∀ v, s.setDest op v = s.setA v := by
    simp [opKind, State.setDest]
  obtain ⟨hkind, hdest⟩ := hops _ hop
  obtain ⟨v, pc, rfl⟩ := next_of_reads hkind hexec
  rw [hdest]
  exact ⟨rfl, rfl, rfl, rfl, fun _ => rfl⟩

/-- Settles O43: a load writes its own register. -/
theorem loadFrame : Obligations.LoadFrame := by
  intro i s t hop hexec
  have hops : ∀ op ∈ [Op.LDA, .LDX, .LDY], opKind op = .reads := by simp [opKind]
  obtain ⟨v, pc, rfl⟩ := next_of_reads (hops _ hop) hexec
  simp only [List.mem_cons, List.not_mem_nil, or_false] at hop
  rcases hop with h | h | h <;> simp [h, State.setDest]

/-- An operation that replaces the byte at an effective address changes nothing else but PC. -/
theorem replaces_frame {i : Instr} {s t : State} (h : opKind i.op = .replaces) (hmode : i.mode? ≠ none)
    (hexec : exec i s = .next t) :
    t.a = s.a ∧ t.x = s.x ∧ t.y = s.y ∧ t.sp = s.sp ∧ t.p = s.p ∧
    ∀ ea, effectiveAddress? i s = some ea → ∀ a : Word, a ≠ ea → t.read a = s.read a := by
  obtain ⟨target, v, pc, htarget, rfl⟩ := next_of_replaces h hexec
  obtain ⟨o, ho⟩ := operand?_eq_some_of_mode? hmode
  rw [ho, resolveTarget_some] at htarget
  rw [effectiveAddress?_eq_toOption ho]
  cases hea : resolve (faultSite i s) o s with
  | error f => rw [hea] at htarget; cases htarget
  | ok ea =>
    rw [hea] at htarget
    cases htarget
    refine ⟨rfl, rfl, rfl, rfl, rfl, fun ea' he a hne => ?_⟩
    cases he
    exact State.read_write_other s v hne

/-- Settles O44: a store replaces the byte at its effective address. -/
theorem storeFrame : Obligations.StoreFrame := by
  intro i s t hop hexec
  have hops : ∀ op ∈ [Op.STA, .STX, .STY], opKind op = .replaces ∧ none ∉ op.modes := by simp [opKind, Op.modes]
  obtain ⟨hkind, hmodes⟩ := hops _ hop
  exact replaces_frame hkind (mode?_ne_of_notMem_modes hmodes) hexec

/-- Settles O45: these operations replace the byte at their effective address. -/
theorem memoryShiftAndIncrementFrame : Obligations.MemoryShiftAndIncrementFrame := by
  intro i s t hop hmode hexec
  have hops : ∀ op ∈ [Op.ASL, .LSR, .ROL, .ROR, .INC, .DEC], opKind op = .replaces := by simp [opKind]
  exact replaces_frame (hops _ hop) hmode hexec

/-- Settles O48: a push writes the byte that SP names, and SP. -/
theorem pushFrame : Obligations.PushFrame := by
  intro i s t hi hexec
  have his : ∀ i ∈ [Instr.pha, .php], opKind i.op = .pushes := by simp [opKind, Instr.op]
  obtain ⟨v, sp, pc, rfl⟩ := next_of_pushes (his i hi) hexec
  exact ⟨rfl, rfl, rfl, rfl, fun a ha => State.read_write_other s v ha⟩

/-- Settles O49: a pull writes SP and its own register. -/
theorem pullFrame : Obligations.PullFrame := by
  intro i s t hi hexec
  simp only [List.mem_cons, List.not_mem_nil, or_false] at hi
  rcases hi with rfl | rfl
  all_goals
    obtain ⟨v, sp, pc, rfl⟩ := next_of_pulls rfl hexec
    simp [State.setDest, Instr.op]

end Sys2Proof.Machine
end

section
/-! Proofs of 43_shift_rotate.md and 46_inc_dec.md: the forms that work on a register alone read no memory. What an instruction
does not read passes unchanged from the state before to the state after. -/

namespace Sys2Proof.Machine

/-- A change of what is computed with the last result passes to the whole computation. -/
theorem map_bind {ε α β γ : Type} (g : β → γ) (x : Except ε α) (f : α → Except ε β) :
    (x >>= f).map g = x >>= fun a => (f a).map g := by
  cases x <;> rfl

theorem State.setDest_setMem (op : Op) (v : Byte) (m : Memory) (s : State) :
    (s.setMem m).setDest op v = (s.setDest op v).setMem m := by
  unfold State.setDest; split <;> rfl

theorem State.setDest_setP {op : Op} (h : op ≠ .PLP) (v p : Byte) (s : State) :
    (s.setP p).setDest op v = (s.setDest op v).setP p := by
  unfold State.setDest
  split
  case h_11 => exact absurd rfl h
  all_goals rfl

/-! ## The forms that work on a register alone -/

def registerForms : List Instr := [.aslAcc, .lsrAcc, .rolAcc, .rorAcc, .inx, .iny, .dex, .dey]

/-- The byte that such a form makes: of A where its operation replaces, of its register where it moves. -/
def registerResult (i : Instr) (s : State) : Except Fault Byte :=
  match opKind i.op with
  | .replaces => replaceResult i.op (faultSite i s) s s.a
  | _ => moveResult i.op (faultSite i s) s

theorem registerResult_setMem (i : Instr) (s : State) (m : Memory) : registerResult i (s.setMem m) = registerResult i s := rfl

/-- Without an operand the target is A (43_shift_rotate.md R224). -/
theorem exec_of_replaces_accumulator {i : Instr} (h : opKind i.op = .replaces) (ho : i.operand? = none) (s : State) :
    exec i s = complete (faultSite i s) 0 s do
      let v ← replaceResult i.op (faultSite i s) s s.a
      return s.setA v := by
  rw [exec_of_replaces h, width_of_none ho, ho]
  rfl

theorem exec_of_mem_registerForms {i : Instr} (hi : i ∈ registerForms) (s : State) :
    exec i s = complete (faultSite i s) 0 s do
      let r ← registerResult i s
      return s.setDest i.op r := by
  simp only [registerForms, List.mem_cons, List.not_mem_nil, or_false] at hi
  rcases hi with rfl | rfl | rfl | rfl | hmoves
  iterate 4 exact exec_of_replaces_accumulator rfl rfl s
  rcases hmoves with rfl | rfl | rfl | rfl <;> exact exec_of_moves rfl s

/-- Settles O46: the cycle of each form writes one register with a byte that depends on no memory. -/
theorem registerFormFrame : Obligations.RegisterFormFrame := by
  refine fun i s t hi => ⟨fun h => ?frame, fun m => ?memory⟩
  case frame =>
    rw [exec_of_mem_registerForms hi] at h
    obtain ⟨-, u, hbody, rfl⟩ := complete_eq_next.1 h
    obtain ⟨v, -, hv⟩ := bind_eq_ok.1 hbody
    cases hv
    simp only [List.mem_cons, List.not_mem_nil, or_false] at hi
    rcases hi with rfl | rfl | rfl | rfl | rfl | rfl | rfl | rfl <;> simp [State.setDest, Instr.op]
  case memory =>
    change exec i (s.setMem m) = mapNext (·.setMem m) (exec i s)
    rw [exec_of_mem_registerForms hi, exec_of_mem_registerForms hi,
      ← complete_map (g := (·.setMem m)) (fun _ => rfl) (fun _ _ => rfl), map_bind]
    simp only [State.setDest_setMem, registerResult_setMem]
    rfl

end Sys2Proof.Machine
end

section
/-! Proofs of 10_state.md section 4: P is storage that only PLP writes and only PHP reads (R39, R40, 90_conflicts.md C4). -/

namespace Sys2Proof.Machine

theorem eq_plp_of_op {i : Instr} (h : i.op = .PLP) : i = .plp := by
  have hform := toInstr?_form i
  rw [Instr.form, h, operand?_PLP i h] at hform
  exact (Option.some.inj hform).symm

theorem eq_php_of_op {i : Instr} (h : i.op = .PHP) : i = .php := by
  have hform := toInstr?_form i
  rw [Instr.form, h, operand?_PHP i h] at hform
  exact (Option.some.inj hform).symm

theorem exec_p {i : Instr} {s t : State} (hi : i ≠ .plp) (hexec : exec i s = .next t) : t.p = s.p := by
  have hop : i.op ≠ .PLP := fun h => hi (eq_plp_of_op h)
  cases h : opKind i.op with
  | reads =>
    obtain ⟨v, pc, rfl⟩ := next_of_reads h hexec
    exact State.setDest_p hop v s
  | replaces =>
    obtain ⟨target, v, pc, -, rfl⟩ := next_of_replaces h hexec
    cases target <;> rfl
  | moves =>
    obtain ⟨v, pc, rfl⟩ := next_of_moves h hexec
    exact State.setDest_p hop v s
  | pushes =>
    obtain ⟨v, sp, pc, rfl⟩ := next_of_pushes h hexec
    rfl
  | pulls =>
    obtain ⟨v, sp, pc, rfl⟩ := next_of_pulls h hexec
    exact State.setDest_p hop v _

/-! ## What the parts of a cycle do not read -/

section Parts

variable (op : Op) (site : Site) (o : Operand) (s : State) (p : Byte)

theorem faultSite_setP (i : Instr) : faultSite i (s.setP p) = faultSite i s := rfl

theorem operandByte_setP : operandByte site o (s.setP p) = operandByte site o s := rfl

theorem resolveTarget_setP (o : Option Operand) : resolveTarget site o (s.setP p) = resolveTarget site o s := rfl

theorem readResult_setP (m : Byte) : readResult op site (s.setP p) m = readResult op site s m := rfl

theorem replaceResult_setP (v : Byte) : replaceResult op site (s.setP p) v = replaceResult op site s v := rfl

theorem moveResult_setP : moveResult op site (s.setP p) = moveResult op site s := rfl

theorem readTarget_setP (t : Target) : (s.setP p).readTarget t = s.readTarget t := by cases t <;> rfl

theorem writeTarget_setP (v : Byte) (t : Target) : (s.setP p).writeTarget v t = (s.writeTarget v t).setP p := by
  cases t <;> rfl

theorem push_setP (v : Byte) : push site v (s.setP p) = (push site v s).map (·.setP p) := by
  unfold push
  rw [State.setP_sp]
  split_ifs <;> rfl

theorem pop_setP : pop site (s.setP p) = (pop site s).map fun r => (r.1, r.2.setP p) := by
  unfold pop
  rw [State.setP_sp]
  split_ifs <;> rfl

/-- A cycle whose body passes a change of P on passes it on. -/
theorem complete_setP {body body' : Except Fault State} (w : Nat) (h : body' = body.map (·.setP p)) :
    complete site w (s.setP p) body' = mapNext (·.setP p) (complete site w s body) := by
  rw [h]
  exact complete_map (g := (·.setP p)) (fun _ => rfl) (fun _ _ => rfl) site w s body

/-- An instruction but PHP and PLP carries P through. -/
theorem exec_setP {i : Instr} (hplp : i ≠ .plp) (hphp : i ≠ .php) :
    exec i (s.setP p) = mapNext (·.setP p) (exec i s) := by
  have hop : i.op ≠ .PLP := fun h => hplp (eq_plp_of_op h)
  have hpushed : pushedByte i.op (s.setP p) = pushedByte i.op s := by
    unfold pushedByte
    split
    · next h => exact absurd (eq_php_of_op h) hphp
    · rfl
  cases h : opKind i.op with
  | reads =>
    obtain ⟨o, ho, hexec⟩ := exec_of_reads h s
    obtain ⟨o', ho', hexec'⟩ := exec_of_reads h (s.setP p)
    cases ho.symm.trans ho'
    rw [hexec, hexec']
    refine complete_setP _ s p _ ?_
    simp only [map_bind, faultSite_setP, operandByte_setP, readResult_setP, State.setDest_setP hop]
    rfl
  | replaces =>
    rw [exec_of_replaces h, exec_of_replaces h]
    refine complete_setP _ s p _ ?_
    simp only [map_bind, faultSite_setP, resolveTarget_setP, replaceResult_setP, readTarget_setP, writeTarget_setP]
    rfl
  | moves =>
    rw [exec_of_moves h, exec_of_moves h]
    refine complete_setP _ s p _ ?_
    simp only [map_bind, faultSite_setP, moveResult_setP, State.setDest_setP hop]
    rfl
  | pushes =>
    rw [exec_of_pushes h, exec_of_pushes h, hpushed]
    exact complete_setP _ s p _ (push_setP _ s p _)
  | pulls =>
    rw [exec_of_pulls h, exec_of_pulls h]
    refine complete_setP _ s p _ ?_
    rw [faultSite_setP, pop_setP]
    cases pop (faultSite i s) s with
    | error f => rfl
    | ok r => exact congrArg Except.ok (State.setDest_setP hop r.1 p r.2)

/-- PLP overwrites P, so it does not matter what P was. -/
theorem exec_plp_setP : exec .plp (s.setP p) = exec .plp s := by
  have hbody : (do let (v, t) ← pop (faultSite .plp s) (s.setP p); return t.setDest .PLP v : Except Fault State) =
      do let (v, t) ← pop (faultSite .plp s) s; return t.setDest .PLP v := by
    rw [pop_setP]
    cases pop (faultSite .plp s) s <;> rfl
  exact congrArg (complete (faultSite .plp s) 0 s) hbody

end Parts

/-- Settles O55: every kind's cycle passes P on, but for the byte that PHP pushes and the P that PLP writes. -/
theorem onlyPlpWritesAndOnlyPhpReadsStatus : Obligations.OnlyPlpWritesAndOnlyPhpReadsStatus := by
  refine fun i s t v => ⟨exec_p, exec_setP s v, ?_⟩
  rintro rfl
  exact exec_plp_setP s v

end Sys2Proof.Machine
end

section
/-! Proofs of 60_exceptions.md, the layer over the kinds of operation: the first fault of each kind's cycle is the one that the
tables of R146 and R400 name, in the order of R409. -/

namespace Sys2Proof.Machine

/-! ## Errors in a sequence -/

theorem bind_of_error {ε α β : Type} {x : Except ε α} {e : ε} (h : x = .error e) (f : α → Except ε β) :
    x >>= f = .error e := by
  rw [h]; rfl

theorem bind_pure_eq_error {ε α β : Type} {x : Except ε α} {g : α → β} {e : ε} :
    (do let a ← x; return g a) = Except.error e ↔ x = .error e := by
  cases x with
  | error d => exact ⟨fun h => by cases h; rfl, fun h => by cases h; rfl⟩
  | ok a => exact ⟨fun h => (nomatch h), fun h => (nomatch h)⟩

theorem fit8_eq_error_iff {site : Site} {v : Int} {f : Fault} : fit8 site v = .error f ↔ widthFault site v = some f := by
  have hrange : ¬(0 ≤ v ∧ v ≤ 0xFF) ↔ v < 0 ∨ 0xFF < v := by omega
  rw [fit8_eq_error, widthFault, hrange]
  split <;> simp_all [eq_comm]

/-! ## The operand of an instruction -/

variable {i : Instr} {s : State} {f : Fault}

/-- The first checks of the cycle: the room in memory, then the resolver's (R409, points 2 and 3). -/
theorem cycleFault_eq_some :
    cycleFault i s = some f ↔
      (0xFFFF < s.pc.toNat + 1 + i.width ∧ f = .pcOverflow (faultSite i s)) ∨
      (s.pc.toNat + 1 + i.width ≤ 0xFFFF ∧ ∃ o, i.operand? = some o ∧ resolverFault (faultSite i s) o s = some f) := by
  unfold cycleFault
  split
  · next h => simp [h, Nat.not_le.2 h, eq_comm]
  · next h => cases i.operand? <;> simp [h, Nat.not_lt.1 h]

theorem operandByte_of_resolverFault {site : Site} {o : Operand} (h : resolverFault site o s = some f) :
    operandByte site o s = .error f := by
  have hmode : o.mode ≠ .immediate := by
    rintro hmode
    rw [resolverFault_eq_none_of_mem (by simp [faultlessModes, hmode])] at h
    cases h
  rw [operandByte_of_resolve hmode, resolve_eq_error.2 h]
  rfl

theorem resolveTarget_of_resolverFault {site : Site} {o : Operand} (h : resolverFault site o s = some f) :
    resolveTarget site (some o) s = .error f := by
  rw [resolveTarget_some, resolve_eq_error.2 h]
  rfl

theorem immediate_notMem_modes {op : Op} (h : opKind op = .replaces) : some .immediate ∉ op.modes := by
  cases op <;> cases h <;> decide

theorem targetByte?_of_resolveTarget {t : Target} (h : opKind i.op = .replaces)
    (ht : resolveTarget (faultSite i s) i.operand? s = .ok t) : targetByte? i s = some (s.readTarget t) := by
  have hmode := mode?_ne_of_notMem_modes (immediate_notMem_modes h)
  cases ho : i.operand? with
  | none =>
    rw [ho] at ht
    cases ht
    simp only [targetByte?, ho]
    rfl
  | some o =>
    have himm : o.mode ≠ .immediate := fun he => hmode (by rw [Instr.mode?, ho, Option.map_some, he])
    rw [ho, resolveTarget_some] at ht
    simp only [targetByte?, ho, dataByte?_eq_toOption ho, operandByte_of_resolve himm]
    cases hea : resolve (faultSite i s) o s with
    | error f => rw [hea] at ht; cases ht
    | ok ea => rw [hea] at ht; cases ht; rfl

/-! ## The cycle of each kind after its checks -/

/-- Where no check of the cycle fails, an operation that reads goes on with its data byte. -/
theorem exec_of_reads_of_cycleFault_eq_none (hkind : opKind i.op = .reads) (h : cycleFault i s = none) :
    ∃ m, dataByte? i s = some m ∧ exec i s = complete (faultSite i s) i.width s do
      let r ← readResult i.op (faultSite i s) s m
      return s.setDest i.op r := by
  obtain ⟨o, ho, hexec⟩ := exec_of_reads hkind s
  obtain ⟨m, hdata, hm⟩ := operandByte_of_cycleFault_eq_none ho h
  refine ⟨m, hdata, ?_⟩
  rw [hexec, hm, width_of_some ho]
  rfl

/-- Where no check of the cycle fails, an operation that replaces goes on with its target. -/
theorem exec_of_replaces_of_cycleFault_eq_none (hkind : opKind i.op = .replaces) (h : cycleFault i s = none) :
    ∃ t, resolveTarget (faultSite i s) i.operand? s = .ok t ∧ exec i s = complete (faultSite i s) i.width s do
      let v ← replaceResult i.op (faultSite i s) s (s.readTarget t)
      return s.writeTarget v t := by
  have htarget : ∃ t, resolveTarget (faultSite i s) i.operand? s = .ok t := by
    by_cases hmode : i.mode? = none
    · exact ⟨_, resolveTarget_of_mode?_eq_none hmode s⟩
    · obtain ⟨ea, -, ht⟩ := resolveTarget_of_mode?_ne_none h hmode
      exact ⟨_, ht⟩
  obtain ⟨t, ht⟩ := htarget
  refine ⟨t, ht, ?_⟩
  rw [exec_of_replaces hkind, ht]
  rfl

/-! ## The semantic operation's fault (R409, point 4) -/

theorem readResult_eq_error {m : Byte} (hkind : opKind i.op = .reads) (hm : dataByte? i s = some m) :
    readResult i.op (faultSite i s) s m = .error f ↔ semanticFault i s = some f := by
  cases hop : i.op with
  | ADC | SBC => simp [readResult, semanticFault, hop, hm, fit8_eq_error_iff]
  | AND | EOR | ORA | LDA | LDX | LDY => simp [readResult, semanticFault, hop]
  | _ => rw [hop] at hkind; cases hkind

theorem targetByte?_eq_dataByte? (h : none ∉ i.op.modes) : targetByte? i s = dataByte? i s := by
  obtain ⟨o, ho⟩ := operand?_eq_some_of_mode? (mode?_ne_of_notMem_modes h)
  rw [targetByte?, ho]

theorem replaceResult_eq_error {v : Byte} (hkind : opKind i.op = .replaces) (hv : targetByte? i s = some v) :
    replaceResult i.op (faultSite i s) s v = .error f ↔ semanticFault i s = some f := by
  cases hop : i.op with
  | ASL => simp [replaceResult, shiftLeft, semanticFault, hop, hv, fit8_eq_error_iff]
  | INC | DEC =>
    rw [targetByte?_eq_dataByte? (by rw [hop]; decide)] at hv
    simp [replaceResult, semanticFault, hop, hv, fit8_eq_error_iff]
  | LSR | ROL | ROR | STA | STX | STY => simp [replaceResult, semanticFault, hop]
  | _ => rw [hop] at hkind; cases hkind

theorem moveResult_eq_error (hkind : opKind i.op = .moves) :
    moveResult i.op (faultSite i s) s = .error f ↔ semanticFault i s = some f := by
  cases hop : i.op with
  | INX | INY => simp [moveResult, semanticFault, hop, fit8_eq_error_iff]
  | TAX | TAY | TSX | TXA | TXS | TYA | DEX | DEY => simp [moveResult, semanticFault, hop]
  | _ => rw [hop] at hkind; cases hkind

theorem push_eq_error (hkind : opKind i.op = .pushes) (v : Byte) :
    push (faultSite i s) v s = .error f ↔ semanticFault i s = some f := by
  have hsem : semanticFault i s = if s.sp = 0x00 then some (.stackOverflow (faultSite i s) 0x00) else none := by
    cases hop : i.op with
    | PHA | PHP => simp only [semanticFault, hop]
    | _ => rw [hop] at hkind; cases hkind
  rw [hsem, push]
  split <;> simp_all

theorem pop_eq_error (hkind : opKind i.op = .pulls) :
    pop (faultSite i s) s = .error f ↔ semanticFault i s = some f := by
  have hsem : semanticFault i s = if s.sp = 0xFF then some (.stackUnderflow (faultSite i s) 0xFF) else none := by
    cases hop : i.op with
    | PLA | PLP => simp only [semanticFault, hop]
    | _ => rw [hop] at hkind; cases hkind
  rw [hsem, pop]
  split <;> simp_all

/-! ## The fault of an instruction -/

/-- The cycle's checks come first: their fault is the instruction's. -/
theorem exec_of_cycleFault (h : cycleFault i s = some f) : exec i s = .fault f := by
  rcases cycleFault_eq_some.1 h with ⟨hover, rfl⟩ | ⟨hfit, o, ho, hf⟩
  · exact exec_of_not_fits hover
  have hfits : fitsMemory i.width s = true := decide_eq_true hfit
  cases hkind : opKind i.op with
  | reads =>
    obtain ⟨o', ho', hexec⟩ := exec_of_reads hkind s
    cases ho.symm.trans ho'
    rw [hexec, ← width_of_some ho]
    exact complete_eq_fault.2 (.inr ⟨hfits, bind_of_error (operandByte_of_resolverFault hf) _⟩)
  | replaces =>
    rw [exec_of_replaces hkind, ho]
    exact complete_eq_fault.2 (.inr ⟨hfits, bind_of_error (resolveTarget_of_resolverFault hf) _⟩)
  | moves | pushes | pulls =>
    have hnone : i.operand? = none := operand?_eq_none_of_opKind hkind nofun nofun
    rw [hnone] at ho
    cases ho

/-- After the checks the instruction ends as its semantic operation does. -/
theorem exec_of_cycleFault_eq_none (h : cycleFault i s = none) :
    ∃ body, exec i s = complete (faultSite i s) i.width s body ∧ ∀ f, body = .error f ↔ semanticFault i s = some f := by
  cases hkind : opKind i.op with
  | reads =>
    obtain ⟨m, hm, hexec⟩ := exec_of_reads_of_cycleFault_eq_none hkind h
    exact ⟨_, hexec, fun f => bind_pure_eq_error.trans (readResult_eq_error hkind hm)⟩
  | replaces =>
    obtain ⟨t, ht, hexec⟩ := exec_of_replaces_of_cycleFault_eq_none hkind h
    have hv := targetByte?_of_resolveTarget hkind ht
    exact ⟨_, hexec, fun f => bind_pure_eq_error.trans (replaceResult_eq_error hkind hv)⟩
  | moves =>
    rw [width_of_none (operand?_eq_none_of_opKind hkind nofun nofun)]
    exact ⟨_, exec_of_moves hkind s, fun f => bind_pure_eq_error.trans (moveResult_eq_error hkind)⟩
  | pushes =>
    rw [width_of_none (operand?_eq_none_of_opKind hkind nofun nofun)]
    exact ⟨_, exec_of_pushes hkind s, fun f => push_eq_error hkind _⟩
  | pulls =>
    rw [width_of_none (operand?_eq_none_of_opKind hkind nofun nofun)]
    exact ⟨_, exec_of_pulls hkind s, fun f => bind_pure_eq_error.trans (pop_eq_error hkind)⟩

theorem exec_of_faultOf (h : faultOf i s = some f) : exec i s = .fault f := by
  unfold faultOf at h
  split at h
  · next g hcycle => cases h; exact exec_of_cycleFault hcycle
  · next hcycle =>
    obtain ⟨body, hexec, herror⟩ := exec_of_cycleFault_eq_none hcycle
    rw [hexec]
    exact complete_eq_fault.2 (.inr ⟨(cycleFault_eq_none.1 hcycle).1, (herror f).2 h⟩)

theorem exec_of_faultOf_eq_none (h : faultOf i s = none) : ∃ t, exec i s = .next t := by
  unfold faultOf at h
  split at h
  · cases h
  · next hcycle =>
    obtain ⟨body, hexec, herror⟩ := exec_of_cycleFault_eq_none hcycle
    cases body with
    | error f => rw [(herror f).1 rfl] at h; cases h
    | ok u => exact ⟨_, hexec.trans (complete_ok_of_cycleFault_eq_none hcycle _ u)⟩

theorem exec_eq_fault_iff : exec i s = .fault f ↔ faultOf i s = some f := by
  refine ⟨fun h => ?_, exec_of_faultOf⟩
  cases hf : faultOf i s with
  | none =>
    obtain ⟨t, ht⟩ := exec_of_faultOf_eq_none hf
    cases h.symm.trans ht
  | some g => cases h.symm.trans (exec_of_faultOf hf); rfl

end Sys2Proof.Machine
end

section
/-! Proofs of 60_exceptions.md: which fault an instruction reports (R400 to R409), and what a step's fault records (R408). -/

namespace Sys2Proof.Machine

/-- Settles O11: the cycle's checks and then the semantic operation fault just as the tables say. -/
theorem execFaultsExactlyWhereTheSpecSays : Obligations.ExecFaultsExactlyWhereTheSpecSays := fun _ _ =>
  ⟨fun _ => exec_of_faultOf, exec_of_faultOf_eq_none⟩

theorem site_of_resolverFault {site : Site} {o : Operand} {s : State} {f : Fault} (h : resolverFault site o s = some f) :
    f.site = site := by
  cases o with
  | immediate | zeroPage | zeroPageX | zeroPageY | absolute => cases h
  | absoluteX | absoluteY | relative | indirect | indexedIndirect =>
    obtain ⟨-, h⟩ := Option.ite_none_right_eq_some.1 h
    cases h
    rfl
  | indirectIndexed =>
    simp only [resolverFault] at h
    split at h
    · cases h; rfl
    · obtain ⟨-, h⟩ := Option.ite_none_right_eq_some.1 h
      cases h
      rfl

theorem site_of_widthFault {site : Site} {v : Int} {f : Fault} (h : widthFault site v = some f) : f.site = site := by
  obtain ⟨-, h⟩ := Option.ite_none_right_eq_some.1 h
  cases h
  rfl

theorem site_of_semanticFault {i : Instr} {s : State} {f : Fault} (h : semanticFault i s = some f) :
    f.site = faultSite i s := by
  cases hop : i.op with
  | ADC | SBC | ASL | INC | DEC =>
    simp only [semanticFault, hop, Option.bind_eq_some_iff] at h
    obtain ⟨v, -, hv⟩ := h
    exact site_of_widthFault hv
  | INX | INY =>
    simp only [semanticFault, hop] at h
    exact site_of_widthFault h
  | PHA | PHP | PLA | PLP =>
    simp only [semanticFault, hop, Option.ite_none_right_eq_some] at h
    obtain ⟨-, h⟩ := h
    cases h
    rfl
  | _ => simp [semanticFault, hop] at h

theorem site_of_faultOf {i : Instr} {s : State} {f : Fault} (h : faultOf i s = some f) : f.site = faultSite i s := by
  unfold faultOf at h
  split at h
  · next g hcycle =>
    cases h
    rcases cycleFault_eq_some.1 hcycle with ⟨-, rfl⟩ | ⟨-, o, -, hf⟩
    · rfl
    · exact site_of_resolverFault hf
  · exact site_of_semanticFault h

theorem site_of_fetch {s : State} {f : Fault} (h : fetch s = .error f) : f.site = ⟨s.pc, s.read s.pc⟩ := by
  simp only [fetch] at h
  split at h <;> cases h <;> rfl

/-- Every fault of a step, the fetch's or the instruction's, is raised at PC and the byte there. -/
theorem site_of_step {s : State} {f : Fault} (h : step s = .fault f) : f.site = ⟨s.pc, s.read s.pc⟩ := by
  unfold step at h
  split at h
  · next g hfetch => cases h; exact site_of_fetch hfetch
  · next i hfetch => rw [site_of_faultOf (exec_eq_fault_iff.1 h), faultSite, opcode_of_fetch hfetch]

theorem step_ne_refused (s : State) (r : Refusal) : step s ≠ .refused r := by
  unfold step
  split
  · nofun
  · next i hfetch =>
    obtain ⟨body, hexec⟩ := exec_eq_complete i s
    rw [hexec]
    exact complete_ne_refused

/-- Only IllegalOpcode and PCOverflow record no value (R408). -/
theorem Fault.record_code_value (f : Fault) :
    1 ≤ f.record.code ∧ f.record.code ≤ 7 ∧ (f.record.value = none ↔ f.record.code ≤ 2) := by
  cases f <;> simp [Fault.record, Fault.code, Fault.value?]

/-- Settles O12: no cycle is refused, and the record is made of the fault's site, code and value. -/
theorem stepIsNeverRefused : Obligations.StepIsNeverRefused := by
  refine fun s => ⟨step_ne_refused s, fun f h => ?_⟩
  have hsite := site_of_step h
  exact ⟨congrArg Site.pcOp hsite, congrArg Site.opcode hsite, f.record_code_value⟩

end Sys2Proof.Machine
end

section
/-! Proofs of 40_addressing_modes.md: the modes that can fault, and the two that no opcode uses, in exact arithmetic (R138 to
R143). -/

namespace Sys2Proof.Machine

theorem checkAddress_natCast {site : Site} {n : Nat} (h : n ≤ 0xFFFF) : checkAddress site n = .ok (BitVec.ofNat 16 n) :=
  checkAddress_eq_ok.2 ⟨Int.natCast_nonneg n, Int.ofNat_le.2 h, (BitVec.ofInt_natCast 16 n).symm⟩

theorem checkAddress_natCast_of_lt {site : Site} {n : Nat} (h : 0xFFFF < n) :
    checkAddress site n = .error (.addressOverflow site n) :=
  checkAddress_eq_error.2 ⟨by omega, rfl⟩

/-- The word at an address, as the sum of its bytes (R14). -/
theorem State.readWord_ofNat_toNat (s : State) (n : Nat) :
    (s.readWord (BitVec.ofNat 16 n)).toNat =
      (s.read (BitVec.ofNat 16 n)).toNat + 0x100 * (s.read (BitVec.ofNat 16 (n + 1))).toNat := by
  rw [BitVec.ofNat_add]
  exact Word.ofBytes_toNat _ _

theorem State.readWord_ofNat (s : State) (n : Nat) :
    s.readWord (BitVec.ofNat 16 n) =
      BitVec.ofNat 16 ((s.read (BitVec.ofNat 16 n)).toNat + 0x100 * (s.read (BitVec.ofNat 16 (n + 1))).toNat) := by
  rw [← State.readWord_ofNat_toNat, BitVec.ofNat_toNat, BitVec.setWidth_eq]

/-- Settles O14: both modes check the exact sum. -/
theorem indexedAbsoluteModesResolve : Obligations.IndexedAbsoluteModesResolve := fun _ _ _ =>
  ⟨checkAddress_natCast, checkAddress_natCast_of_lt, checkAddress_natCast, checkAddress_natCast_of_lt⟩

/-- Settles O15: up to 0xFE the pointer and the address after it lie in the zero page. -/
theorem indexedIndirectResolves : Obligations.IndexedIndirectResolves := by
  intro site b s
  have hpointer : b.toWord + s.x.toWord = BitVec.ofNat 16 (b.toNat + s.x.toNat) := by
    rw [Byte.toWord_eq_ofNat, Byte.toWord_eq_ofNat, ← BitVec.ofNat_add]
  refine ⟨fun h => ?_, fun h => if_pos h⟩
  rw [← State.readWord_ofNat, ← hpointer]
  exact if_neg (Nat.not_lt.2 h)

/-- Settles O16: the pointer's test comes first, then the check of the exact sum. -/
theorem indirectIndexedResolves : Obligations.IndirectIndexedResolves := by
  intro site b s base
  have hbase : (s.readWord b.toWord).toNat = base := by
    rw [Byte.toWord_eq_ofNat]
    exact s.readWord_ofNat_toNat b.toNat
  refine ⟨?wrap, fun hb h => ?resolves, fun hb h => ?overflow⟩
  case wrap => rintro rfl; rfl
  case resolves =>
    rw [resolve, if_neg hb, hbase]
    exact checkAddress_natCast h
  case overflow =>
    rw [resolve, if_neg hb, hbase]
    exact checkAddress_natCast_of_lt h

/-- Settles O17: indirect tests its pointer, and relative checks the exact signed sum. -/
theorem unboundModesResolve : Obligations.UnboundModesResolve := by
  intro site w b s
  refine ⟨rfl, fun hw => ?indirect, fun hlow hhigh => ?relative, fun h => ?overflow⟩
  case indirect =>
    have hword := s.readWord_ofNat w.toNat
    rw [BitVec.ofNat_toNat, BitVec.setWidth_eq] at hword
    rw [resolve, if_neg hw, hword]
  case relative => exact checkAddress_eq_ok.2 ⟨hlow, hhigh, rfl⟩
  case overflow => exact checkAddress_eq_error.2 ⟨by omega, rfl⟩

end Sys2Proof.Machine
end

section
/-! Proofs of 42_arith_logic.md, 43_shift_rotate.md and 46_inc_dec.md, the layer over the width check: the exact results that
fit 8 bits (00_scope.md R17), and how an instruction ends with its result. -/

namespace Sys2Proof.Machine

theorem fit8_natCast {site : Site} {n : Nat} (h : n ≤ 0xFF) : fit8 site n = .ok (BitVec.ofNat 8 n) :=
  fit8_eq_ok.2 ⟨Int.natCast_nonneg n, Int.ofNat_le.2 h, (BitVec.ofInt_natCast 8 n).symm⟩

theorem fit8_add {site : Site} {a b : Byte} (h : a.toNat + b.toNat ≤ 0xFF) :
    fit8 site ((a.toNat : Int) + b.toNat) = .ok (a + b) := by
  rw [← Int.natCast_add, fit8_natCast h, BitVec.ofNat_add, BitVec.ofNat_toNat, BitVec.ofNat_toNat, BitVec.setWidth_eq,
    BitVec.setWidth_eq]

theorem fit8_sub {site : Site} {a b : Byte} (h : b.toNat ≤ a.toNat) :
    fit8 site ((a.toNat : Int) - b.toNat) = .ok (a - b) := by
  have ha := a.isLt
  rw [← Int.natCast_sub h, fit8_natCast (by omega), ← BitVec.toNat_sub_of_le h, BitVec.ofNat_toNat, BitVec.setWidth_eq]

/-- Once the cycle's checks pass, the instruction ends as the computation of its result does. -/
theorem exec_of_result {i : Instr} {s : State} {result : Except Fault Byte} {writes : Byte → State}
    (h : cycleFault i s = none)
    (hexec : exec i s = complete (faultSite i s) i.width s do
      let r ← result
      return writes r) :
    (∀ r, result = .ok r → exec i s = .next ((writes r).setPc (pcAfter i s))) ∧
    ∀ f, result = .error f → exec i s = .fault f := by
  refine ⟨fun r hr => ?_, fun f hf => ?_⟩
  · rw [hexec, hr]
    exact complete_ok_of_cycleFault_eq_none h _ _
  · rw [hexec]
    exact complete_eq_fault.2 (.inr ⟨(cycleFault_eq_none.1 h).1, bind_of_error hf _⟩)

/-- How an operation that replaces ends, on A without a mode and on the byte at the effective address with one (R224). -/
theorem exec_of_replaceResult {i : Instr} {s : State} {t : Target} (hkind : opKind i.op = .replaces)
    (h : cycleFault i s = none) (ht : resolveTarget (faultSite i s) i.operand? s = .ok t) :
    (∀ v, replaceResult i.op (faultSite i s) s (s.readTarget t) = .ok v →
      exec i s = .next ((s.writeTarget v t).setPc (pcAfter i s))) ∧
    ∀ f, replaceResult i.op (faultSite i s) s (s.readTarget t) = .error f → exec i s = .fault f := by
  obtain ⟨t', ht', hexec⟩ := exec_of_replaces_of_cycleFault_eq_none hkind h
  cases ht.symm.trans ht'
  exact exec_of_result h hexec

end Sys2Proof.Machine
end

section
/-! Proofs of 42_arith_logic.md: the checked operations ADC and SBC (R200, R204). -/

namespace Sys2Proof.Machine

/-- Settles O18: ADC's slots are the listed ones, and its result is the exact sum with the data byte, checked. -/
theorem adcAddsWithoutCarry : Obligations.AdcAddsWithoutCarry := by
  refine ⟨slot_iff_mem_of_perm (by decide), fun i s hop => ⟨fun f => exec_of_cycleFault, fun h => ?_⟩⟩
  obtain ⟨m, hm, hexec⟩ := exec_of_reads_of_cycleFault_eq_none (by rw [hop]; rfl) h
  rw [hop] at hexec
  obtain ⟨hnext, hfault⟩ := exec_of_result h hexec
  exact ⟨m, hm, fun hfit => hnext _ (fit8_add hfit), fun hwide => hfault _ (fit8_eq_error.2 ⟨by omega, rfl⟩)⟩

/-- Settles O22: SBC's slots are the listed ones, and its result is the exact difference with the data byte, checked. -/
theorem sbcSubtractsWithoutBorrow : Obligations.SbcSubtractsWithoutBorrow := by
  refine ⟨slot_iff_mem_of_perm (by decide), fun i s hop => ⟨fun f => exec_of_cycleFault, fun h => ?_⟩⟩
  obtain ⟨m, hm, hexec⟩ := exec_of_reads_of_cycleFault_eq_none (by rw [hop]; rfl) h
  rw [hop] at hexec
  obtain ⟨hnext, hfault⟩ := exec_of_result h hexec
  exact ⟨m, hm, fun hfit => hnext _ (fit8_sub hfit), fun hneg => hfault _ (fit8_eq_error.2 ⟨by omega, rfl⟩)⟩

end Sys2Proof.Machine
end

section
/-! Proofs of 43_shift_rotate.md: ASL (R220). -/

namespace Sys2Proof.Machine

theorem shiftLeft_of_lt {site : Site} {v : Byte} (h : v.toNat < 0x80) :
    shiftLeft site v = .ok (BitVec.ofNat 8 (2 * v.toNat)) :=
  fit8_natCast (n := 2 * v.toNat) (by omega)

theorem shiftLeft_of_ge {site : Site} {v : Byte} (h : 0x80 ≤ v.toNat) :
    shiftLeft site v = .error (.widthOverflow site (2 * v.toNat)) :=
  fit8_eq_error.2 ⟨by omega, rfl⟩

/-- Settles O23: ASL's slots are the listed ones, and its result is twice the target's byte, checked. -/
theorem aslShiftsLeftExactly : Obligations.AslShiftsLeftExactly := by
  refine ⟨slot_iff_mem_of_perm (by decide), fun i s hop => ⟨fun f => exec_of_cycleFault, fun h => ?_⟩⟩
  have hends {t : Target} (ht : resolveTarget (faultSite i s) i.operand? s = .ok t) :=
    exec_of_replaceResult (by rw [hop]; rfl) h ht
  simp only [hop] at hends
  refine ⟨fun hmode => ?accumulator, fun hmode => ?memory⟩
  case accumulator =>
    obtain ⟨hnext, hfault⟩ := hends (resolveTarget_of_mode?_eq_none hmode s)
    exact ⟨fun hlow => hnext _ (shiftLeft_of_lt hlow), fun hhigh => hfault _ (shiftLeft_of_ge hhigh)⟩
  case memory =>
    obtain ⟨ea, hea, ht⟩ := resolveTarget_of_mode?_ne_none h hmode
    obtain ⟨hnext, hfault⟩ := hends ht
    exact ⟨ea, hea, fun hlow => hnext _ (shiftLeft_of_lt hlow), fun hhigh => hfault _ (shiftLeft_of_ge hhigh)⟩

end Sys2Proof.Machine
end

section
/-! Proofs of 46_inc_dec.md: the checked INC, DEC, INX and INY (R280 to R283). -/

namespace Sys2Proof.Machine

theorem fit8_add_one {site : Site} {v : Byte} (h : v ≠ 0xFF) : fit8 site ((v.toNat : Int) + 1) = .ok (v + 1) := by
  have hv := v.isLt
  have hne : v.toNat ≠ 0xFF := fun he => h (BitVec.eq_of_toNat_eq he)
  exact fit8_add (b := 1) (show v.toNat + 1 ≤ 0xFF by omega)

theorem fit8_sub_one {site : Site} {v : Byte} (h : v ≠ 0x00) : fit8 site ((v.toNat : Int) - 1) = .ok (v - 1) := by
  have hne : v.toNat ≠ 0 := fun he => h (BitVec.eq_of_toNat_eq he)
  exact fit8_sub (b := 1) (show 1 ≤ v.toNat by omega)

theorem fit8_add_one_of_eq {site : Site} {v : Byte} (h : v = 0xFF) :
    fit8 site ((v.toNat : Int) + 1) = .error (.widthOverflow site 0x100) := by
  rw [h]
  exact fit8_eq_error.2 ⟨by decide, rfl⟩

theorem fit8_sub_one_of_eq {site : Site} {v : Byte} (h : v = 0x00) :
    fit8 site ((v.toNat : Int) - 1) = .error (.widthOverflow site (-1)) := by
  rw [h]
  exact fit8_eq_error.2 ⟨by decide, rfl⟩

/-- Settles O34: INC's slots are the listed ones, and its result is one more than the byte at EA, checked. -/
theorem incIncrementsMemory : Obligations.IncIncrementsMemory := by
  refine ⟨slot_iff_mem_of_perm (by decide), fun i s hop => ⟨fun f => exec_of_cycleFault, fun h => ?_⟩⟩
  obtain ⟨ea, hea, ht⟩ := resolveTarget_of_mode?_ne_none h (mode?_ne_of_notMem_modes (by rw [hop]; decide))
  obtain ⟨hnext, hfault⟩ := exec_of_replaceResult (by rw [hop]; rfl) h ht
  rw [hop] at hnext hfault
  exact ⟨ea, hea, fun hv => hnext _ (fit8_add_one hv), fun hv => hfault _ (fit8_add_one_of_eq hv)⟩

/-- Settles O35: DEC's slots are the listed ones, and its result is one less than the byte at EA, checked. -/
theorem decDecrementsMemory : Obligations.DecDecrementsMemory := by
  refine ⟨slot_iff_mem_of_perm (by decide), fun i s hop => ⟨fun f => exec_of_cycleFault, fun h => ?_⟩⟩
  obtain ⟨ea, hea, ht⟩ := resolveTarget_of_mode?_ne_none h (mode?_ne_of_notMem_modes (by rw [hop]; decide))
  obtain ⟨hnext, hfault⟩ := exec_of_replaceResult (by rw [hop]; rfl) h ht
  rw [hop] at hnext hfault
  exact ⟨ea, hea, fun hv => hnext _ (fit8_sub_one hv), fun hv => hfault _ (fit8_sub_one_of_eq hv)⟩

/-- Settles O36: INX and INY have one slot each, and the result of each is one more than its register, checked. -/
theorem inxInyIncrementWithoutWrap : Obligations.InxInyIncrementWithoutWrap := by
  refine ⟨slot_iff_of_slots_eq_singleton (by decide), slot_iff_of_slots_eq_singleton (by decide), fun s =>
    ⟨fun hfit => ?_, fun hover => ⟨exec_of_not_fits hover, exec_of_not_fits hover⟩⟩⟩
  obtain ⟨hnextX, hfaultX⟩ := exec_of_result (i := .inx) (cycleFault_eq_none_of_operand?_eq_none rfl hfit)
    (exec_of_moves rfl s)
  obtain ⟨hnextY, hfaultY⟩ := exec_of_result (i := .iny) (cycleFault_eq_none_of_operand?_eq_none rfl hfit)
    (exec_of_moves rfl s)
  exact ⟨fun hx => hnextX _ (fit8_add_one hx), fun hx => hfaultX _ (fit8_add_one_of_eq hx),
    fun hy => hnextY _ (fit8_add_one hy), fun hy => hfaultY _ (fit8_add_one_of_eq hy)⟩

end Sys2Proof.Machine
end

section
/-! Proofs of 47_stack.md: what a push and a pull do, in exact addresses (R300 to R307), and their round trip (R308). -/

namespace Sys2Proof.Machine

/-- The stack page begins at 0x0100, and no stack address leaves it (10_state.md R37). -/
theorem stackAddress_toNat (sp : Byte) : (stackAddress sp).toNat = 0x100 + sp.toNat := by
  have hsp := sp.isLt
  have hword : (Byte.toWord sp).toNat = sp.toNat := BitVec.toNat_setWidth_of_le (by decide)
  have hfit : Config.stackBase.toNat + (Byte.toWord sp).toNat < 2 ^ 16 := by
    rw [hword]
    exact Nat.lt_of_lt_of_le (Nat.add_lt_add_left hsp _) (by decide)
  rw [stackAddress, BitVec.toNat_add_of_lt hfit, hword]
  rfl

theorem stackAddress_succ_toNat {sp : Byte} (h : sp ≠ 0xFF) : (stackAddress (sp + 1)).toNat = 0x100 + sp.toNat + 1 := by
  have hsp := sp.isLt
  have hne : sp.toNat ≠ 0xFF := fun he => h (BitVec.eq_of_toNat_eq he)
  have hnext : (sp + 1).toNat = sp.toNat + 1 := BitVec.toNat_add_of_lt (show sp.toNat + 1 < 2 ^ 8 by omega)
  rw [stackAddress_toNat, hnext, Nat.add_assoc]

variable {i : Instr} {s : State}

/-- A push writes its byte where SP names, then decrements SP; at SP = 0x00 it faults (R300). -/
theorem exec_push (hkind : opKind i.op = .pushes) (hfit : s.pc.toNat + 1 ≤ 0xFFFF) :
    (s.sp ≠ 0x00 → exec i s = .next { s with
      mem := s.mem.write (0x100 + s.sp.toNat) (pushedByte i.op s), sp := s.sp - 1,
      pc := BitVec.ofNat 16 (s.pc.toNat + 1) }) ∧
    (s.sp = 0x00 → exec i s = .fault (.stackOverflow (faultSite i s) 0x00)) := by
  have ho : i.operand? = none := operand?_eq_none_of_opKind hkind nofun nofun
  have hexec := exec_of_pushes hkind s
  refine ⟨fun hsp => ?_, fun hsp => ?_⟩
  · rw [push_eq_ok.2 ⟨hsp, rfl⟩] at hexec
    rw [exec_eq_next_of_writes ho hexec hfit, ← stackAddress_toNat]
    rfl
  · rw [hexec]
    exact complete_eq_fault.2 (.inr ⟨decide_eq_true hfit, by rw [push, if_pos hsp, hsp]; rfl⟩)

/-- A pull increments SP, then reads where it names into its register; at SP = 0xFF it faults (R301). -/
theorem exec_pull (hkind : opKind i.op = .pulls) (hfit : s.pc.toNat + 1 ≤ 0xFFFF) :
    (s.sp ≠ 0xFF → exec i s = .next
      (((s.setSp (s.sp + 1)).setDest i.op (s.mem.read (0x100 + s.sp.toNat + 1))).setPc
        (BitVec.ofNat 16 (s.pc.toNat + 1)))) ∧
    (s.sp = 0xFF → exec i s = .fault (.stackUnderflow (faultSite i s) 0xFF)) := by
  have ho : i.operand? = none := operand?_eq_none_of_opKind hkind nofun nofun
  have hexec := exec_of_pulls hkind s
  refine ⟨fun hsp => ?_, fun hsp => ?_⟩
  · rw [pop_eq_ok.2 ⟨hsp, rfl, rfl⟩] at hexec
    rw [← stackAddress_succ_toNat hsp]
    exact exec_eq_next_of_writes ho hexec hfit
  · rw [hexec]
    exact complete_eq_fault.2 (.inr ⟨decide_eq_true hfit, by rw [pop, if_pos hsp, hsp]; rfl⟩)

end Sys2Proof.Machine
end

section
/-! Proofs of 47_stack.md: PHA, PHP, PLA, PLP. -/

namespace Sys2Proof.Machine

/-- Settles O38: PHA has one slot, and pushes A. -/
theorem phaPushesA : Obligations.PhaPushesA :=
  ⟨slot_iff_of_slots_eq_singleton (by decide), fun _ => ⟨exec_push (i := .pha) rfl, exec_of_not_fits (i := .pha)⟩⟩

/-- Settles O39: PHP has one slot, and pushes P. -/
theorem phpPushesStatusUnchanged : Obligations.PhpPushesStatusUnchanged :=
  ⟨slot_iff_of_slots_eq_singleton (by decide), fun _ => ⟨exec_push (i := .php) rfl, exec_of_not_fits (i := .php)⟩⟩

/-- Settles O40: PLA has one slot, and pulls into A. -/
theorem plaPullsA : Obligations.PlaPullsA :=
  ⟨slot_iff_of_slots_eq_singleton (by decide), fun _ => ⟨exec_pull (i := .pla) rfl, exec_of_not_fits (i := .pla)⟩⟩

/-- Settles O41: PLP has one slot, and pulls into P. -/
theorem plpPullsStatusWhole : Obligations.PlpPullsStatusWhole :=
  ⟨slot_iff_of_slots_eq_singleton (by decide), fun _ => ⟨exec_pull (i := .plp) rfl, exec_of_not_fits (i := .plp)⟩⟩

theorem nextPc_ofNat_toNat {s : State} (h : s.pc.toNat + 2 ≤ 0xFFFF) :
    (BitVec.ofNat 16 (s.pc.toNat + 1)).toNat = s.pc.toNat + 1 :=
  Nat.mod_eq_of_lt (by omega)

/-- Settles O56: SP is decremented in between and then incremented, so the pull reads where the push wrote. -/
theorem phaThenPlaRestores : Obligations.PhaThenPlaRestores := by
  intro s v hinv hsp hfit
  have hlow : (s.sp - 1).toNat + 1 = s.sp.toNat := by
    have hpos : s.sp.toNat ≠ 0 := fun he => hsp (BitVec.eq_of_toNat_eq he)
    rw [BitVec.toNat_sub_of_le (show (1 : Byte).toNat ≤ s.sp.toNat from Nat.pos_of_ne_zero hpos)]
    exact Nat.sub_add_cancel (Nat.pos_of_ne_zero hpos)
  have hbound : s.sp - 1 ≠ 0xFF := fun he => by
    have hmax := s.sp.isLt
    rw [he] at hlow
    exact absurd hlow.symm (Nat.ne_of_lt hmax)
  have hfit' : (BitVec.ofNat 16 (s.pc.toNat + 1)).toNat + 1 ≤ 0xFFFF := by rw [nextPc_ofNat_toNat hfit]; exact hfit
  refine ⟨_, _, (exec_push rfl (by omega)).1 hsp, (exec_pull rfl hfit').1 hbound, ?a, ?sp⟩
  case a =>
    change (s.mem.write (0x100 + s.sp.toNat) s.a).read (0x100 + (s.sp - 1).toNat + 1) = s.a
    rw [Nat.add_assoc, hlow]
    exact Memory.read_write_same hinv _ s.a
  case sp => exact BitVec.sub_add_cancel s.sp 1

end Sys2Proof.Machine
end

section
/-! Proofs of 45_transfer.md: the six transfers (R260 to R265). -/

namespace Sys2Proof.Machine

/-- Settles O33: each transfer has one slot and cannot fault but at the end of memory; the SP that TXS writes is the one PHA
uses. -/
theorem transfersCopyOneRegister : Obligations.TransfersCopyOneRegister := by
  refine ⟨slot_iff_of_slots_eq_singleton (by decide), slot_iff_of_slots_eq_singleton (by decide),
    slot_iff_of_slots_eq_singleton (by decide), slot_iff_of_slots_eq_singleton (by decide),
    slot_iff_of_slots_eq_singleton (by decide), slot_iff_of_slots_eq_singleton (by decide), fun s =>
    ⟨fun hfit => ?completes, fun hover => ?overflows, fun hfit hx => ?stack⟩⟩
  case completes =>
    exact ⟨exec_eq_next_of_writes rfl (exec_TAX .tax s rfl) hfit,
      exec_eq_next_of_writes rfl (exec_TAY .tay s rfl) hfit,
      exec_eq_next_of_writes rfl (exec_TSX .tsx s rfl) hfit,
      exec_eq_next_of_writes rfl (exec_TXA .txa s rfl) hfit,
      exec_eq_next_of_writes rfl (exec_TXS .txs s rfl) hfit,
      exec_eq_next_of_writes rfl (exec_TYA .tya s rfl) hfit⟩
  case overflows =>
    exact ⟨exec_of_not_fits hover, exec_of_not_fits hover, exec_of_not_fits hover, exec_of_not_fits hover,
      exec_of_not_fits hover, exec_of_not_fits hover⟩
  case stack =>
    have hfit' : (BitVec.ofNat 16 (s.pc.toNat + 1)).toNat + 1 ≤ 0xFFFF := by rw [nextPc_ofNat_toNat hfit]; exact hfit
    exact ⟨_, _, exec_eq_next_of_writes rfl (exec_TXS .txs s rfl) (by omega), (exec_push rfl hfit').1 hx, rfl⟩

end Sys2Proof.Machine
end

section
/-! Proofs of 41_execution_cycle.md section 3 and 70_reset_and_hazards.md section 2: the end of a run, and `load`. -/

namespace Sys2Proof.Machine

/-- A run that has the rounds to reach the end of memory ends by halting or by a fault: PC rises in each round. -/
theorem runFor_ends (h : Byte) {n : Nat} {s : State} (hn : Config.memorySize ≤ s.pc.toNat + n) :
    (∃ t, runFor h n s = .halted t ∧ t.read t.pc = h) ∨
    (∃ t f, runFor h n s = .faulted t f ∧ t.read t.pc ≠ h ∧ step t = .fault f) := by
  have hpc : s.pc.toNat < Config.memorySize := s.pc.isLt
  induction n generalizing s with
  | zero => omega
  | succ n ih =>
    by_cases hread : s.read s.pc = h
    · exact .inl ⟨s, runFor_succ_of_halt hread n, hread⟩
    cases hstep : step s with
    | next t =>
      have hlt := step_pc_lt hstep
      rw [runFor_succ_of_next hread hstep]
      exact ih (by omega) t.pc.isLt
    | fault f => exact .inr ⟨s, f, runFor_succ_of_fault hread hstep n, hread, hstep⟩
    | refused r => exact absurd hstep (step_ne_refused s r)

/-- Settles O58: `run` gives the rounds from PC to the end of memory. -/
theorem everyRunEnds : Obligations.EveryRunEnds := fun h s => runFor_ends h (le_add_tsub : _ ≤ s.pc.toNat + _)

/-- Settles O59: a ROM that fits is stored from the load address on, and the store's laws say what then reads where. -/
theorem loadCopiesTheRom : Obligations.LoadCopiesTheRom := by
  refine fun rom s hinv => ⟨fun hfit => ?fits, fun hlong => if_neg (Nat.not_le.2 hlong)⟩
  have hroom : Config.loadAddress.toNat + rom.length ≤ Config.memorySize := Nat.add_le_add_left hfit 0x200
  exact ⟨_, if_pos hfit, rfl, Memory.wf_store hinv _ rom, Memory.read_store_same hinv _ rom hroom,
    fun a ha => Memory.read_store_other _ _ a rom ha⟩

end Sys2Proof.Machine
end
